-- ==== Sys2Proof/Word.lean ====
section
/-! DEFINITION. Sys2Proof/Word.lean: the words of the core, the host access, and the events that can happen next. -/

namespace Sys2Proof

/-- One symbol, one intensity, one byte of FB or RB (00_scope.md R9). -/
abbrev Byte := BitVec 8

/-- A register or a command word (10_state.md section 5, R100). -/
abbrev Word := BitVec 32

/-- A byte offset into the 64 KiB register window (R70). -/
abbrev Offset := BitVec 16

/-- The widths a host access can have (R200: n is 1, 2 or 4 bytes). -/
inductive Width where
  | byte
  | half
  | word
deriving DecidableEq, Repr, Inhabited

/-- The number n of bytes an access of this width covers (R200). -/
def Width.bytes : Width → Nat
  | .byte => 1
  | .half => 2
  | .word => 4

/-- A host access to the register window: direction, offset, width, and the value of a write (R200). -/
inductive Access where
  | read (off : Offset) (width : Width)
  | write (off : Offset) (width : Width) (value : Word)
deriving DecidableEq, Repr, Inhabited

/-- The offset o of an access (R200). -/
def Access.off : Access → Offset
  | .read o _ => o
  | .write o _ _ => o

/-- The width n of an access (R200). -/
def Access.width : Access → Width
  | .read _ n => n
  | .write _ n _ => n

/-- The two ways the spec writes an instruction down: a command is a 32-bit word (R100), every other host instruction
is an access, selected by offset and width and not by a bit pattern (R109). -/
inductive Code where
  | command (w : Word)
  | access (a : Access)
deriving DecidableEq, Repr, Inhabited

/-- What happens next: a host access, a step of the transfer engine (a beat or a faulting beat, R173 and R174), a step
of the sequencer (R179), or the platform's reset event (R260). -/
inductive Event where
  | host (a : Access)
  | beat
  | faultBeat
  | sequencer
  | reset
deriving DecidableEq, Repr, Inhabited

end Sys2Proof
end

