-- ==== Sys2Proof/Syntax.lean ====
section
/-! DEFINITION. Sys2Proof/Syntax.lean: the instructions, one constructor a row of spec/opcode_table.json, and one more
for the words of R106, which the table puts under its first ILLEGAL row. -/

namespace Sys2Proof

/-- The host's instructions: the commands a word written to CMD carries (R104), the illegal words (R105, R106), and the
register-window accesses (R109). -/
inductive Instr where
  /-- NOP, with the 28 bits the core ignores (R107). -/
  | nop (hint : BitVec 28)
  /-- START LEN (R150). -/
  | start (len : BitVec 16)
  /-- STOP (R156). -/
  | stop
  /-- ENC_CH OFFSET, VALUE (R131). -/
  | encCh (offset : BitVec 16) (value : Byte)
  /-- ENC_LED OFFSET (R132). -/
  | encLed (offset : BitVec 16)
  /-- ENC_STRIP LEDIDX (R133). -/
  | encStrip (ledIdx : BitVec 16)
  /-- A word with OP 0x6 or 0x7 (R105). -/
  | illegalOp67 (w : Word)
  /-- A word with OP 0x8 to 0xF (R105). -/
  | illegalOp8F (w : Word)
  /-- A word with OP 0x1 to 0x5 and a reserved bit set (R106). -/
  | illegalReservedBits (w : Word)
  /-- RD.CMD (R201). -/
  | rdCmd
  /-- WR.CMD (R202). -/
  | wrCmd (w : Word)
  /-- RD.STATUS (R203). -/
  | rdStatus
  /-- WR.STATUS (R204). -/
  | wrStatus (v : Word)
  /-- RD.COLOR (R205). -/
  | rdColor
  /-- WR.COLOR (R206). -/
  | wrColor (v : Word)
  /-- RD.LEN (R207). -/
  | rdLen
  /-- WR.LEN (R208). -/
  | wrLen (v : Word)
  /-- RD.FAULT_COUNT (R209). -/
  | rdFaultCount
  /-- WR.FAULT_COUNT (R210). -/
  | wrFaultCount (v : Word)
  /-- RD.ERR (R211). -/
  | rdErr
  /-- WR.ERR (R212). -/
  | wrErr (v : Word)
  /-- RD.CONFIG (R214). -/
  | rdConfig
  /-- WR.CONFIG (R215). -/
  | wrConfig (v : Word)
  /-- RD.PATTERNS (R216). -/
  | rdPatterns
  /-- WR.PATTERNS (R217). -/
  | wrPatterns (v : Word)
  /-- RD.FB at window offset o = 0x1000 + i (R218). -/
  | rdFb (o : Offset) (width : Width)
  /-- WR.FB at window offset o = 0x1000 + i (R219). -/
  | wrFb (o : Offset) (width : Width) (v : Word)
  /-- ACCESS_FAULT: an access R200 refuses. -/
  | accessFault (a : Access)
deriving DecidableEq, Repr, Inhabited

end Sys2Proof
end

