-- ==== Sys2Proof/WellFormed.lean ====
section
/-! DEFINITION. Sys2Proof/WellFormed.lean: which terms of Instr stand for an instruction of the core, for a frame buffer
of L bytes. Written from the rules, apart from the decoder, so that the round trip compares two texts. -/

namespace Sys2Proof

/-- A 32-bit access at the 4-byte-aligned offset of one of the eight registers (R71, R74). -/
abbrev Access.ToRegister (a : Access) : Prop :=
  a.width = .word ∧ a.off.toNat < 0x20 ∧ a.off.toNat % 4 = 0

/-- An access at offset o of n bytes lying wholly in the FB window, naturally aligned (R73). -/
abbrev InFbWindow (L : Nat) (o : Offset) (n : Nat) : Prop :=
  0x1000 ≤ o.toNat ∧ o.toNat + n ≤ 0x1000 + L ∧ o.toNat % n = 0

/-- An access the core performs; every other one is refused (R76, R77). -/
abbrev Access.Accepted (L : Nat) (a : Access) : Prop :=
  a.ToRegister ∨ InFbWindow L a.off a.width.bytes

/-- The reserved bits of a command word with OP 0x1 to 0x5 are not all 0 (R101, R106). -/
abbrev HasReservedBitSet (w : Word) : Prop :=
  (w.extractLsb' 28 4 = 0x1#4 ∧ w.extractLsb' 16 12 ≠ 0#12) ∨
  (w.extractLsb' 28 4 = 0x2#4 ∧ w.extractLsb' 0 28 ≠ 0#28) ∨
  (w.extractLsb' 28 4 = 0x3#4 ∧ w.extractLsb' 24 4 ≠ 0#4) ∨
  (w.extractLsb' 28 4 = 0x4#4 ∧ w.extractLsb' 16 12 ≠ 0#12) ∨
  (w.extractLsb' 28 4 = 0x5#4 ∧ w.extractLsb' 16 12 ≠ 0#12)

/-- The terms that stand for an instruction, where the frame buffer has L bytes. A command's operands are checked by its
meaning and not here (R108). -/
def WellFormed (L : Nat) : Instr → Bool
  | .nop _ => true
  | .start _ => true
  | .stop => true
  | .encCh _ _ => true
  | .encLed _ => true
  | .encStrip _ => true
  | .illegalOp67 w => decide (w.extractLsb' 29 3 = 0b011#3)
  | .illegalOp8F w => decide (w.extractLsb' 31 1 = 0b1#1)
  | .illegalReservedBits w => decide (HasReservedBitSet w)
  | .rdCmd => true
  | .wrCmd _ => true
  | .rdStatus => true
  | .wrStatus _ => true
  | .rdColor => true
  | .wrColor _ => true
  | .rdLen => true
  | .wrLen _ => true
  | .rdFaultCount => true
  | .wrFaultCount _ => true
  | .rdErr => true
  | .wrErr _ => true
  | .rdConfig => true
  | .wrConfig _ => true
  | .rdPatterns => true
  | .wrPatterns _ => true
  | .rdFb o n => decide (InFbWindow L o n.bytes)
  | .wrFb o n _ => decide (InFbWindow L o n.bytes)
  | .accessFault a => decide (¬ a.Accepted L)

end Sys2Proof
end

