-- ==== Sys2Proof/Decode.lean ====
section
/-! DEFINITION. Sys2Proof/Decode.lean: the command decoder of R108, the access dispatch of R200, and after them the
encoder. -/

namespace Sys2Proof

/-- R108, as a case analysis: what the word w is, handed to the function given for that case. The decoder below and the
meaning of WR.CMD (R202) both go through it, so a word is read in one place. -/
def caseCommand {α : Type} (w : Word) (nop : BitVec 28 → α) (start : BitVec 16 → α) (stop : α)
    (encCh : BitVec 16 → Byte → α) (encLed encStrip : BitVec 16 → α)
    (reservedBits op67 op8F : Word → α) : α :=
  if w.extractLsb' 28 4 = 0x0#4 then nop (w.extractLsb' 0 28)
  else if w.extractLsb' 28 4 = 0x1#4 then
    if w.extractLsb' 16 12 = 0#12 then start (w.extractLsb' 0 16) else reservedBits w
  else if w.extractLsb' 28 4 = 0x2#4 then
    if w.extractLsb' 0 28 = 0#28 then stop else reservedBits w
  else if w.extractLsb' 28 4 = 0x3#4 then
    if w.extractLsb' 24 4 = 0#4 then encCh (w.extractLsb' 8 16) (w.extractLsb' 0 8) else reservedBits w
  else if w.extractLsb' 28 4 = 0x4#4 then
    if w.extractLsb' 16 12 = 0#12 then encLed (w.extractLsb' 0 16) else reservedBits w
  else if w.extractLsb' 28 4 = 0x5#4 then
    if w.extractLsb' 16 12 = 0#12 then encStrip (w.extractLsb' 0 16) else reservedBits w
  else if w.extractLsb' 28 4 = 0x6#4 ∨ w.extractLsb' 28 4 = 0x7#4 then op67 w
  else op8F w

/-- The instruction a 32-bit command word stands for: total, every illegal word under an ILLEGAL constructor (R108). -/
def decodeCommand (w : Word) : Instr :=
  caseCommand w .nop .start .stop .encCh .encLed .encStrip .illegalReservedBits .illegalOp67 .illegalOp8F

/-- The register a 32-bit aligned access at offset o, 0x0000 to 0x001C, reads or writes (R71, R201 to R217). -/
def decodeRegister (a : Access) : Instr :=
  match a with
  | .read o n =>
    if o = 0x00#16 then .rdCmd
    else if o = 0x04#16 then .rdStatus
    else if o = 0x08#16 then .rdColor
    else if o = 0x0C#16 then .rdLen
    else if o = 0x10#16 then .rdFaultCount
    else if o = 0x14#16 then .rdErr
    else if o = 0x18#16 then .rdConfig
    else if o = 0x1C#16 then .rdPatterns
    else .accessFault (.read o n)
  | .write o n v =>
    if o = 0x00#16 then .wrCmd v
    else if o = 0x04#16 then .wrStatus v
    else if o = 0x08#16 then .wrColor v
    else if o = 0x0C#16 then .wrLen v
    else if o = 0x10#16 then .wrFaultCount v
    else if o = 0x14#16 then .wrErr v
    else if o = 0x18#16 then .wrConfig v
    else if o = 0x1C#16 then .wrPatterns v
    else .accessFault (.write o n v)

/-- The access lies in the FB window of a frame buffer of L bytes (R200: o ≥ 0x1000 and o + n ≤ 0x1000 + L). The sum is
exact, so an access at the top of the window never wraps round. -/
def inFbWindow (L : Nat) (o : Offset) (n : Width) : Bool :=
  decide (0x1000 ≤ o.toNat) && decide (o.toNat + n.bytes ≤ 0x1000 + L)

/-- The access is naturally aligned (R200: o mod n = 0). -/
def isAligned (o : Offset) (n : Width) : Bool :=
  decide (o.toNat % n.bytes = 0)

/-- RD.FB or WR.FB, by the access's direction (R218, R219). -/
def decodeFb : Access → Instr
  | .read o n => .rdFb o n
  | .write o n v => .wrFb o n v

/-- The instruction a host access stands for, as R200 dispatches it. -/
def decodeAccess (L : Nat) (a : Access) : Instr :=
  if a.off.toNat ≤ 0x1C then
    if a.width = .word ∧ a.off.toNat % 4 = 0 then decodeRegister a else .accessFault a
  else if inFbWindow L a.off a.width then
    if isAligned a.off a.width then decodeFb a else .accessFault a
  else .accessFault a

/-- The decoder: a command word (R108) or an access (R200). -/
def decode (L : Nat) : Code → Instr
  | .command w => decodeCommand w
  | .access a => decodeAccess L a

/-- The encoder, from R101, R104 and R71: the command word or the access that stands for an instruction. -/
def encode : Instr → Code
  | .nop hint => .command (0x0#4 ++ hint)
  | .start len => .command (0x1#4 ++ 0#12 ++ len)
  | .stop => .command (0x2#4 ++ 0#28)
  | .encCh offset value => .command (0x3#4 ++ 0#4 ++ offset ++ value)
  | .encLed offset => .command (0x4#4 ++ 0#12 ++ offset)
  | .encStrip ledIdx => .command (0x5#4 ++ 0#12 ++ ledIdx)
  | .illegalOp67 w => .command w
  | .illegalOp8F w => .command w
  | .illegalReservedBits w => .command w
  | .rdCmd => .access (.read 0x00 .word)
  | .wrCmd w => .access (.write 0x00 .word w)
  | .rdStatus => .access (.read 0x04 .word)
  | .wrStatus v => .access (.write 0x04 .word v)
  | .rdColor => .access (.read 0x08 .word)
  | .wrColor v => .access (.write 0x08 .word v)
  | .rdLen => .access (.read 0x0C .word)
  | .wrLen v => .access (.write 0x0C .word v)
  | .rdFaultCount => .access (.read 0x10 .word)
  | .wrFaultCount v => .access (.write 0x10 .word v)
  | .rdErr => .access (.read 0x14 .word)
  | .wrErr v => .access (.write 0x14 .word v)
  | .rdConfig => .access (.read 0x18 .word)
  | .wrConfig v => .access (.write 0x18 .word v)
  | .rdPatterns => .access (.read 0x1C .word)
  | .wrPatterns v => .access (.write 0x1C .word v)
  | .rdFb o n => .access (.read o n)
  | .wrFb o n v => .access (.write o n v)
  | .accessFault a => .access a

/-- The host access that brings an instruction to the core: a command is a 32-bit write to CMD (R100). -/
def Code.toAccess : Code → Access
  | .command w => .write 0x00 .word w
  | .access a => a

/-- DESIGN CHOICE (log entry 9). The spec selects an access by offset and width, not by bits (R109), so the model numbers
an access's bits itself: 15:0 offset, 16 direction (0 read, 1 write), 18:17 width (0 is 4 bytes, 1 is 1, 2 is 2, 3 is
none), 50:19 value. -/
def accessOfBits (x : Nat) : Option Access :=
  let off : Offset := BitVec.ofNat 16 x
  let width : Option Width :=
    match x / 2 ^ 17 % 4 with
    | 0 => some .word
    | 1 => some .byte
    | 2 => some .half
    | _ => none
  match width with
  | none => none
  | some n =>
    if x / 2 ^ 16 % 2 = 0 then some (.read off n) else some (.write off n (BitVec.ofNat 32 (x / 2 ^ 19)))

/-- What the table's nbits and w stand for: 32 bits are a command word, any other row is an access (log entry 9). -/
def codeOfTableWord (nbits w : Nat) : Option Code :=
  if nbits = 32 then some (.command (BitVec.ofNat 32 w)) else (accessOfBits w).map .access

/-- The smallest frame buffer a legal build has: one LED of 24 bytes (R7, R8). -/
def smallestFbLen : Nat := 24

/-- The instruction the decoder reads from a row of spec/opcode_table.json. A row has no build, so an access is read
against the smallest frame buffer: what lies in its FB window lies in that of every build. -/
def decodeTableWord (nbits w : Nat) : Option Instr :=
  (codeOfTableWord nbits w).map (decode smallestFbLen)

end Sys2Proof
end

