-- ==== Sys2Proof/Config.lean ====
section
/-! DEFINITION. Sys2Proof/Config.lean: the build parameters of 00_scope.md section 3, and the model's free values. -/

namespace Sys2Proof

/-- The three channels of an LED (R8, R11). -/
inductive Channel where
  | g
  | r
  | b
deriving DecidableEq, Repr, Inhabited

/-- P_START_FILL (R13). -/
inductive StartFill where
  | low
  | zero
deriving DecidableEq, Repr, Inhabited

/-- P_FAULT_POLICY (R14). -/
inductive FaultPolicy where
  | production
  | debugHalt
deriving DecidableEq, Repr, Inhabited

/-- P_WIRE_ORDER (R15). -/
inductive WireOrder where
  | msbFirst
  | lsbFirst
deriving DecidableEq, Repr, Inhabited

/-- P_ORDER: the channel in each slot of an LED (R11). -/
structure ChannelOrder where
  slot0 : Channel
  slot1 : Channel
  slot2 : Channel
deriving DecidableEq, Repr, Inhabited

/-- The build parameters of one core (R7 to R17). `symTime` is P_SYM_TIME in some unit of time, `base` is P_BASE; no
rule of the core's state reads either. -/
structure Params where
  nleds : Nat
  high : Byte
  low : Byte
  order : ChannelOrder
  resetLen : Nat
  startFill : StartFill
  faultPolicy : FaultPolicy
  wireOrder : WireOrder
  symTime : Nat
  base : Nat
deriving DecidableEq, Repr, Inhabited

/-- The number of 1 bits of a byte (R18). -/
def popcount (b : Byte) : Nat :=
  (List.range 8).countP fun i => b.getLsbD i

/-- L, the length of FB in bytes: 24 a LED (R8, R9). -/
def Params.fbLen (p : Params) : Nat := p.nleds * 24

/-- RB: P_RESET_LEN bytes of 0x00, constant (R12, R34). -/
def Params.rb (p : Params) : List Byte := List.replicate p.resetLen 0x00#8

/-- P_ORDER is a permutation of the three channels (R11). -/
def ChannelOrder.isPermutation (o : ChannelOrder) : Bool :=
  decide (o.slot0 ≠ o.slot1) && decide (o.slot0 ≠ o.slot2) && decide (o.slot1 ≠ o.slot2)

/-- The constraints R7, R10 (a) to (d), R11 and R12 put on a build. -/
def Params.legal (p : Params) : Bool :=
  decide (1 ≤ p.nleds ∧ p.nleds ≤ 2560) &&
  decide (p.high ≠ p.low) && decide (5 ≤ popcount p.high) && decide (popcount p.low ≤ 2) &&
  decide (¬ (p.high = 0xFF#8 ∧ p.low = 0x00#8)) &&
  p.order.isPermutation &&
  decide (1 ≤ p.resetLen ∧ p.resetLen ≤ 255)

/-- The spec's example configuration EX (95_test_vectors.md section 0), with a symbol time and a base address of 0: the
tests' build, and the legal build that `Config.build` falls back on. -/
def Params.ex : Params where
  nleds := 2
  high := 0xF8
  low := 0xC0
  order := ⟨.g, .r, .b⟩
  resetLen := 2
  startFill := .low
  faultPolicy := .production
  wireOrder := .msbFirst
  symTime := 0
  base := 0

/-- FREE VALUE (log entry 4): the parameters a build was made with, before they are known to be legal. -/
opaque Config.rawBuild : Params

/-- The build of the core that comes out of `State.reset`: any legal one. Nothing proves which: where `rawBuild` is legal
it is that, and nothing says that it is not. -/
def Config.build : Params :=
  if Config.rawBuild.legal then Config.rawBuild else Params.ex

/-- FREE VALUE (log entry 5): the byte a platform reset leaves at an index of FB, for each reset (R33, R260). -/
opaque Config.fbDraw : Nat → Nat → Byte

/-- FREE VALUE (log entry 6): the byte on the wire at a faulting beat, for each such beat (R174). -/
opaque Config.wireDraw : Nat → Byte

/-- FREE VALUE (log entry 2): what happens next where nothing is fixed: any agent, any host access, a platform reset
(R6, 93_implementation_defined.md U3, U4). -/
opaque Config.freeEvent : Nat → Event

end Sys2Proof
end

