-- ==== Sys2Proof/Machine/State.lean ====
section
/-! DEFINITION. Sys2Proof/Machine/State.lean: the state of one core (10_state.md R30), and the model's own fields. -/

namespace Sys2Proof.Machine

/-- PHASE (R35). -/
inductive Phase where
  | frame
  | gap
deriving DecidableEq, Repr, Inhabited

/-- DESC.SRC (R38). -/
inductive Source where
  | fb
  | rb
deriving DecidableEq, Repr, Inhabited

/-- DESC, the active transfer descriptor (R38). -/
structure Desc where
  src : Source
  dlen : BitVec 16
  pos : BitVec 16
deriving DecidableEq, Repr, Inhabited

/-- COLOR, the operand register (R32). -/
structure Color where
  g : Byte
  r : Byte
  b : Byte
deriving DecidableEq, Repr, Inhabited

/-- The values ERR.CODE can record; 6 to 15 are reserved and never recorded (R231). -/
inductive ErrCode where
  | none
  | cfg
  | bounds
  | rearm
  | illegal
  | access
deriving DecidableEq, Repr, Inhabited

/-- ERR (R44). -/
structure Err where
  code : ErrCode
  multi : Bool
  op : BitVec 4
  info : BitVec 16
deriving DecidableEq, Repr, Inhabited

/-- The cells of FB written since the last reset, by index. An unlisted index holds no written value: it reads as the
draw reset left there (log entry 5). Canonical form: `Memory.wf`. -/
abbrev Memory := List Host.Cell

/-- The state of one core. -/
structure State where
  /-- FB, as far as it has been written since reset (R33). -/
  fb : Memory
  /-- PHASE (R35). -/
  phase : Phase
  /-- ARMED (R36). -/
  armed : Bool
  /-- DONE (R37). -/
  done : Bool
  /-- DESC (R38). -/
  desc : Desc
  /-- LEN_REG (R39). -/
  lenReg : BitVec 16
  /-- XC_PEND (R40). -/
  xcPend : Bool
  /-- FAULT_PEND (R41). -/
  faultPend : Bool
  /-- HALTED (R42). -/
  halted : Bool
  /-- FAULT_COUNT (R43). -/
  faultCount : BitVec 32
  /-- ERR (R44). -/
  err : Err
  /-- COLOR (R32). -/
  color : Color
  /-- WIRE, ghost: the bytes emitted so far, oldest first (R46). -/
  wire : List Byte
  /-- PHASE_TRACE, ghost: the phases entered since the last successful START (R46). -/
  phaseTrace : List Phase
  /-- DONE_SETS, ghost (R46). -/
  doneSets : Nat
  /-- RACE, ghost (R46, R213). -/
  race : Bool
  /-- The build parameters, which RB, CONFIG and PATTERNS report; no step writes them (R260, R54, R55). -/
  cfg : Params
  /-- The MODEL's own: the value the last host read returned (log entry 7). -/
  rdata : Word
  /-- The MODEL's own: the events already fixed, the next one first (log entry 1). -/
  agenda : List Event
  /-- The MODEL's own: how many free events have been taken (log entry 2). -/
  freeEvents : Nat
  /-- The MODEL's own: how many bytes have been drawn for the wire (log entry 6). -/
  draws : Nat
  /-- The MODEL's own: how many reset events there have been since `State.reset` (log entry 5). -/
  resets : Nat
deriving DecidableEq, Repr

/-- What ends a run with a fault: nothing. Every error of this core is recorded in ERR and the core continues (R236,
R242), so no definition raises a fault. Safe: there is no stop to be wrong about. -/
inductive Fault where
deriving DecidableEq, Repr

/-- What ends a run with a refusal. -/
inductive Refusal where
  /-- Raised by an arm of `exec` for an instruction without a meaning; no arm does so now. Safe. -/
  | notModelled (mnemonic : String)
deriving DecidableEq, Repr

/-- The three outcomes of a step of this machine. -/
abbrev Result := Host.Outcome State Fault Refusal

/-- The machine right after reset (R260), built with any legal parameters. -/
def State.reset : State where
  fb := []
  phase := .frame
  armed := false
  done := false
  desc := ⟨.fb, 0, 0⟩
  lenReg := 0
  xcPend := false
  faultPend := false
  halted := false
  faultCount := 0
  err := ⟨.none, false, 0, 0⟩
  color := ⟨0, 0, 0⟩
  wire := []
  phaseTrace := []
  doneSets := 0
  race := false
  cfg := Config.build
  rdata := 0
  agenda := []
  freeEvents := 0
  draws := 0
  resets := 0

end Sys2Proof.Machine
end

