-- ==== Sys2Proof/Machine/Ops.lean ====
section
/-! DEFINITION. Sys2Proof/Machine/Ops.lean: the named operations over memory and registers, recording an error (the one
thing this core does in place of taking an exception, R236, R237; it has no return from one, R242), and the reset event. -/

namespace Sys2Proof.Machine

/-- The value written at index i since reset, if one was. -/
def Memory.lookup : Memory → Nat → Option Byte
  | [], _ => none
  | c :: m, i => if c.1 = i then some c.2 else Memory.lookup m i

/-- Write byte v at index i, keeping the indices strictly rising. -/
def Memory.store : Memory → Nat → Byte → Memory
  | [], i, v => [(i, v)]
  | c :: m, i, v =>
    if i < c.1 then (i, v) :: c :: m
    else if i = c.1 then (i, v) :: m
    else c :: Memory.store m i v

/-- Write the bytes one after the other from index i on. -/
def Memory.storeList : Memory → Nat → List Byte → Memory
  | m, _, [] => m
  | m, i, b :: bs => Memory.storeList (Memory.store m i b) (i + 1) bs

/-- The canonical form: indices strictly rising. (An unlisted index holds no written value, so no entry can equal it.) -/
def Memory.wf (m : Memory) : Bool :=
  decide (m.Pairwise fun c d => c.1 < d.1)

/-- FB[i] (R33): the byte last written there, or the draw the last reset left (R218). Defined for every i; no rule reads
FB at or beyond L (log entry 16). -/
def State.fbByte (s : State) (i : Nat) : Byte :=
  (Memory.lookup s.fb i).getD (Config.fbDraw s.resets i)

/-- FB[i + k] <- bytes[k], for every k (R19). -/
def State.writeFb (s : State) (i : Nat) (bytes : List Byte) : State :=
  { s with fb := Memory.storeList s.fb i bytes }

/-- A host read returns v (R19, R200). -/
def State.setRdata (s : State) (v : Word) : State :=
  { s with rdata := v }

/-- What recording an error makes of ERR: the first error is kept, a further one sets MULTI (R236). -/
def Err.record (e : Err) (code : ErrCode) (op : BitVec 4) (info : BitVec 16) : Err :=
  if e.code = .none then { e with code := code, op := op, info := info } else { e with multi := true }

/-- raise E(op, info): record the error and do nothing else (R235, R236). -/
def State.raise (s : State) (code : ErrCode) (op : BitVec 4) (info : BitVec 16) : State :=
  { s with err := s.err.record code op info }

/-- raise E_ILLEGAL for the command word w: OP = w[31:28], INFO = w[15:0] (R105, R106). -/
def State.raiseIllegal (s : State) (w : Word) : State :=
  s.raise .illegal (w.extractLsb' 28 4) (w.extractLsb' 0 16)

/-- Refuse a host access: raise E_ACCESS with OP = 0 and INFO = the offset; a read returns 0 (R76, R77, R200). -/
def State.refuse (s : State) (a : Access) : State :=
  match a with
  | .read o _ => (s.raise .access 0x0 o).setRdata 0
  | .write o _ _ => s.raise .access 0x0 o

/-- The platform's reset event (R260): every field of the core at its reset value, FB drawn anew, the build kept. The
model's own fields go on: the host's last value, the events to come, the draws taken (log entry 17). -/
def State.platformReset (s : State) : State :=
  { State.reset with
    cfg := s.cfg
    rdata := s.rdata
    agenda := s.agenda
    freeEvents := s.freeEvents
    draws := s.draws
    resets := s.resets + 1 }

end Sys2Proof.Machine
end

