-- ==== Sys2Proof/Machine/Engine.lean ====
section
/-! DEFINITION. Sys2Proof/Machine/Engine.lean: the steps of the transfer engine and of the sequencer (42_sequencer.md).
`none` is an agent with no enabled step: stuck (R20). -/

namespace Sys2Proof.Machine

/-- A beat is enabled (R172). -/
def State.beatEnabled (s : State) : Bool :=
  s.armed && !s.halted && !s.xcPend && decide (s.desc.pos.toNat < s.desc.dlen.toNat)

/-- The byte a beat reads: FB[DESC.POS] or RB[DESC.POS] (R173). -/
def State.sourceByte (s : State) : Byte :=
  match s.desc.src with
  | .fb => s.fbByte s.desc.pos.toNat
  | .rb => (s.cfg.rb[s.desc.pos.toNat]?).getD 0x00#8

/-- emit(b), advance DESC.POS, and set XC_PEND on the last byte of the transfer (R173, R175). -/
def State.moveByte (s : State) (b : Byte) : State :=
  { s with
    wire := s.wire ++ [b]
    desc := { s.desc with pos := s.desc.pos + 1 }
    xcPend := s.xcPend || decide (s.desc.pos + 1 = s.desc.dlen) }

/-- A beat (R173). -/
def State.beat (s : State) : Option State :=
  if s.beatEnabled then some (s.moveByte s.sourceByte) else none

/-- A faulting beat: the byte on the wire is a draw, and FAULT_PEND is set (R174). -/
def State.faultBeat (s : State) : Option State :=
  if s.beatEnabled then
    some { s.moveByte (Config.wireDraw s.draws) with faultPend := true, draws := s.draws + 1 }
  else none

/-- The complete step FRAME -> GAP (R176). -/
def State.frameToGap (s : State) : State :=
  { s with
    done := true
    phase := .gap
    desc := ⟨.rb, BitVec.ofNat 16 s.cfg.resetLen, 0⟩
    xcPend := false
    phaseTrace := s.phaseTrace ++ [.gap]
    doneSets := s.doneSets + 1 }

/-- The complete step GAP -> FRAME (R178). -/
def State.gapToFrame (s : State) : State :=
  { s with
    phase := .frame
    desc := ⟨.fb, s.lenReg, 0⟩
    xcPend := false
    phaseTrace := s.phaseTrace ++ [.frame] }

/-- The fault step (R177): FAULT_COUNT wraps mod 2^32. -/
def State.faultStep (s : State) : State :=
  match s.cfg.faultPolicy with
  | .production => { s with faultCount := s.faultCount + 1, faultPend := false }
  | .debugHalt => { s with faultCount := s.faultCount + 1, halted := true }

/-- The sequencer's step: a pending fault goes before a complete step (R176 to R179). -/
def State.sequencer (s : State) : Option State :=
  if s.armed && !s.halted then
    if s.faultPend then some s.faultStep
    else if s.xcPend then
      match s.phase with
      | .frame => some s.frameToGap
      | .gap => some s.gapToFrame
    else none
  else none

end Sys2Proof.Machine
end

