-- ==== Sys2Proof/Machine/Agenda.lean ====
section
/-! DEFINITION. Sys2Proof/Machine/Agenda.lean: which event happens next, and what an event that is no host access does. -/

namespace Sys2Proof.Machine

/-- The event that happens next: the first of the agenda, or a free one where the agenda is empty (log entries 1, 2). -/
def State.nextEvent (s : State) : Event :=
  match s.agenda with
  | [] => Config.freeEvent s.freeEvents
  | e :: _ => e

/-- The state once the next event has been taken up, before it has had any effect. -/
def State.popEvent (s : State) : State :=
  match s.agenda with
  | [] => { s with freeEvents := s.freeEvents + 1 }
  | _ :: rest => { s with agenda := rest }

/-- A chance to step for an agent: its step where it has one enabled, nothing where it is stuck (R20; log entry 3). -/
def State.orStuck (s : State) (t : Option State) : State :=
  t.getD s

/-- The events that are no host access: a beat (R173), a faulting beat (R174), a sequencer step (R179), reset (R260). -/
def State.takeBeat (s : State) : State := s.orStuck s.beat

/-- A faulting beat, where a beat is enabled (R174). -/
def State.takeFaultBeat (s : State) : State := s.orStuck s.faultBeat

/-- A step of the sequencer, where one is enabled (R179). -/
def State.takeSequencer (s : State) : State := s.orStuck s.sequencer

/-- The instruction a host access brings to this core (R200). -/
def State.decodeHost (s : State) (a : Access) : Instr :=
  decodeAccess s.cfg.fbLen a

/-- The host issues the accesses next, in this order (R80). -/
def State.issue (s : State) (accesses : List Access) : State :=
  { s with agenda := accesses.map .host ++ s.agenda }

end Sys2Proof.Machine
end

