-- ==== Sys2Proof/Machine/Flags.lean ====
section
/-! DEFINITION. Sys2Proof/Machine/Flags.lean: the register words and the flag computations. -/

namespace Sys2Proof.Machine

/-- PHASE as a bit (R35). -/
def Phase.bit : Phase → BitVec 1
  | .frame => 0
  | .gap => 1

/-- ERR.CODE as its number (R231). -/
def ErrCode.bits : ErrCode → BitVec 4
  | .none => 0
  | .cfg => 1
  | .bounds => 2
  | .rearm => 3
  | .illegal => 4
  | .access => 5

/-- The number PATTERNS reports for a channel: G = 0, R = 1, B = 2 (R55). -/
def channelBits : Channel → BitVec 2
  | .g => 0
  | .r => 1
  | .b => 2

/-- The bit CONFIG reports for P_FAULT_POLICY (R54). -/
def faultPolicyBit : FaultPolicy → BitVec 1
  | .production => 0
  | .debugHalt => 1

/-- The bit CONFIG reports for P_START_FILL (R54). -/
def startFillBit : StartFill → BitVec 1
  | .low => 0
  | .zero => 1

/-- The bit CONFIG reports for P_WIRE_ORDER (R54). -/
def wireOrderBit : WireOrder → BitVec 1
  | .msbFirst => 0
  | .lsbFirst => 1

/-- STATUS.ERR_ANY: 1 iff ERR.CODE ≠ 0 (R49). -/
def State.errAny (s : State) : Bool := decide (s.err.code ≠ .none)

/-- The value of STATUS (R49, R203). -/
def State.statusWord (s : State) : Word :=
  0#25 ++ BitVec.ofBool s.errAny ++ BitVec.ofBool s.faultPend ++ BitVec.ofBool s.xcPend ++ BitVec.ofBool s.halted ++
    s.phase.bit ++ BitVec.ofBool s.armed ++ BitVec.ofBool s.done

/-- The value of COLOR (R50, R205). -/
def Color.word (c : Color) : Word :=
  0#8 ++ c.g ++ c.r ++ c.b

/-- What a write of v makes of COLOR (R206). -/
def colorOfWord (v : Word) : Color where
  g := v.extractLsb' 16 8
  r := v.extractLsb' 8 8
  b := v.extractLsb' 0 8

/-- The value of LEN (R51, R207). -/
def State.lenWord (s : State) : Word :=
  0#16 ++ s.lenReg

/-- The value of ERR (R53, R211). -/
def Err.word (e : Err) : Word :=
  e.info ++ 0#4 ++ e.op ++ 0#3 ++ BitVec.ofBool e.multi ++ e.code.bits

/-- The value of CONFIG (R54, R214). -/
def configWord (p : Params) : Word :=
  0#5 ++ wireOrderBit p.wireOrder ++ startFillBit p.startFill ++ faultPolicyBit p.faultPolicy ++
    BitVec.ofNat 8 p.resetLen ++ BitVec.ofNat 16 p.fbLen

/-- The value of PATTERNS (R55, R216). -/
def patternsWord (p : Params) : Word :=
  0#10 ++ channelBits p.order.slot2 ++ channelBits p.order.slot1 ++ channelBits p.order.slot0 ++ p.high ++ p.low

/-- A write of v to STATUS: bit 0 clears DONE where it is 1, every other bit is ignored (R204). -/
def State.writeStatus (s : State) (v : Word) : State :=
  { s with done := s.done && !v.getLsbD 0 }

/-- A host write of FB at this moment is a race: ARMED = 1, PHASE = FRAME and HALTED = 0 (R213). -/
def State.racing (s : State) : Bool :=
  s.armed && decide (s.phase = .frame) && !s.halted

/-- The race mark of a host write of FB bytes (R213). -/
def State.markRace (s : State) : State :=
  { s with race := s.race || s.racing }

/-- A host write of bytes to FB from index i on, with its race mark (R213). -/
def State.hostWriteFb (s : State) (i : Nat) (bytes : List Byte) : State :=
  (s.writeFb i bytes).markRace

end Sys2Proof.Machine
end

