-- ==== Sys2Proof/Machine/Operands.lean ====
section
/-! DEFINITION. Sys2Proof/Machine/Operands.lean: the operand forms: the waveform of an intensity, the three slots of an
LED, and the little-endian values of the FB window. -/

namespace Sys2Proof.Machine

/-- enc(b)[j]: P_HIGH where bit 7 - j of b is 1, else P_LOW (R130). -/
def encSymbol (p : Params) (b : Byte) (j : Nat) : Byte :=
  if b.getLsbD (7 - j) then p.high else p.low

/-- enc(b), the 8 symbols of intensity b, most significant bit first (R130). -/
def enc (p : Params) (b : Byte) : List Byte :=
  (List.range 8).map (encSymbol p b)

/-- The intensity COLOR holds for a channel (R132). -/
def Color.channel (c : Color) : Channel → Byte
  | .g => c.g
  | .r => c.r
  | .b => c.b

/-- The 24 symbols of one LED: the waveform of each slot's channel, slot 0 first (R132). -/
def ledSymbols (p : Params) (c : Color) : List Byte :=
  enc p (c.channel p.order.slot0) ++ enc p (c.channel p.order.slot1) ++ enc p (c.channel p.order.slot2)

/-- The byte START fills FB with (R13, R152). -/
def startByte (p : Params) : Byte :=
  match p.startFill with
  | .low => p.low
  | .zero => 0x00#8

/-- The sum of f (i + k) << 8k over k < n: the little-endian value of n bytes from i on (R72, R218). -/
def loadLE (f : Nat → Byte) (i : Nat) : Nat → Word
  | 0 => 0
  | n + 1 => (f i).setWidth 32 ||| (loadLE f (i + 1) n <<< 8)

/-- The n low bytes of a value, byte k being bits 8k+7:8k (R72, R219). -/
def splitLE (v : Word) (n : Nat) : List Byte :=
  (List.range n).map fun k => v.extractLsb' (8 * k) 8

/-- The index i of window offset o = 0x1000 + i (R71). -/
def fbIndex (o : Offset) : Nat := o.toNat - 0x1000

end Sys2Proof.Machine
end

