-- ==== Sys2Proof/Machine/Control.lean ====
section
/-! DEFINITION. Sys2Proof/Machine/Control.lean: the engine control commands (41_engine_control.md) and the illegal words
(30_encoding.md R105, R106). -/

namespace Sys2Proof.Machine

/-- The effects of a START whose checks pass (R152). The fill sets no race mark: ARMED is still 0. -/
def State.arm (s : State) (len : BitVec 16) : State :=
  { s.writeFb 0 (List.replicate len.toNat (startByte s.cfg)) with
    done := false
    lenReg := len
    phase := .frame
    desc := ⟨.fb, len, 0⟩
    xcPend := false
    faultPend := false
    halted := false
    armed := true
    phaseTrace := [.frame]
    doneSets := 0 }

/-- The effects of STOP (R156). -/
def State.disarm (s : State) : State :=
  { s with
    armed := false
    phase := .frame
    desc := ⟨.fb, 0, 0⟩
    xcPend := false
    faultPend := false
    halted := false }

/-- NOP (R155, R107). -/
def execNop (_hint : BitVec 28) (s : State) : Result :=
  .next s

/-- START LEN: armed is checked before the length (R151, R152). -/
def execStart (len : BitVec 16) (s : State) : Result :=
  .next (
    if s.armed then s.raise .rearm 0x1 len
    else if len = 0 ∨ s.cfg.fbLen < len.toNat then s.raise .cfg 0x1 len
    else s.arm len)

/-- STOP (R156). -/
def execStop (s : State) : Result :=
  .next s.disarm

/-- A word with OP 0x6 or 0x7 (R105). -/
def execIllegalOp67 (w : Word) (s : State) : Result :=
  .next (s.raiseIllegal w)

/-- A word with OP 0x8 to 0xF (R105). -/
def execIllegalOp8F (w : Word) (s : State) : Result :=
  .next (s.raiseIllegal w)

/-- A word with OP 0x1 to 0x5 and a reserved bit set (R106). -/
def execIllegalReservedBits (w : Word) (s : State) : Result :=
  .next (s.raiseIllegal w)

end Sys2Proof.Machine
end

