-- ==== Sys2Proof/Machine/Encoder.lean ====
section
/-! DEFINITION. Sys2Proof/Machine/Encoder.lean: the channel encoder commands (40_encoder.md). They run in every engine
state (R136). -/

namespace Sys2Proof.Machine

/-- Write the 24 symbols of COLOR to FB from index base on (the body of R132). -/
def State.encodeLedAt (s : State) (base : Nat) : State :=
  s.hostWriteFb base (ledSymbols s.cfg s.color)

/-- ENC_CH OFFSET, VALUE (R131). -/
def execEncCh (offset : BitVec 16) (value : Byte) (s : State) : Result :=
  .next (
    if s.cfg.fbLen < offset.toNat + 8 then s.raise .bounds 0x3 offset
    else s.hostWriteFb offset.toNat (enc s.cfg value))

/-- ENC_LED OFFSET (R132). -/
def execEncLed (offset : BitVec 16) (s : State) : Result :=
  .next (
    if s.cfg.fbLen < offset.toNat + 24 then s.raise .bounds 0x4 offset
    else s.encodeLedAt offset.toNat)

/-- ENC_STRIP LEDIDX (R133): the product is exact. -/
def execEncStrip (ledIdx : BitVec 16) (s : State) : Result :=
  .next (
    if s.cfg.nleds ≤ ledIdx.toNat then s.raise .bounds 0x5 ledIdx
    else s.encodeLedAt (ledIdx.toNat * 24))

end Sys2Proof.Machine
end

