-- ==== Sys2Proof/Machine/FrameBuffer.lean ====
section
/-! DEFINITION. Sys2Proof/Machine/FrameBuffer.lean: the accesses to the FB window (R218, R219), and the refused access
(R200). -/

namespace Sys2Proof.Machine

/-- R200's condition for an FB-window access of this core. The decoder has asked it already; asked again, it gives
RD.FB and WR.FB a meaning for operands that no access decodes to: that of the refused access (log entry 11). -/
def State.fbAccepts (s : State) (o : Offset) (n : Width) : Bool :=
  inFbWindow s.cfg.fbLen o n && isAligned o n

/-- RD.FB (R218). -/
def execRdFb (o : Offset) (n : Width) (s : State) : Result :=
  .next (
    if s.fbAccepts o n then s.setRdata (loadLE s.fbByte (fbIndex o) n.bytes)
    else s.refuse (.read o n))

/-- WR.FB (R219). -/
def execWrFb (o : Offset) (n : Width) (v : Word) (s : State) : Result :=
  .next (
    if s.fbAccepts o n then s.hostWriteFb (fbIndex o) (splitLE v n.bytes)
    else s.refuse (.write o n v))

/-- ACCESS_FAULT: an access R200 refuses (R76, R77, R200). -/
def execAccessFault (a : Access) (s : State) : Result :=
  .next (s.refuse a)

end Sys2Proof.Machine
end

