-- ==== Sys2Proof/Machine/Registers.lean ====
section
/-! DEFINITION. Sys2Proof/Machine/Registers.lean: the register accesses (43_register_access.md R201 to R217). No read has
a side effect beyond the value it returns (R79). -/

namespace Sys2Proof.Machine

/-- RD.CMD (R201). -/
def execRdCmd (s : State) : Result :=
  .next (s.setRdata 0x00000000)

/-- WR.CMD: execute(decode(w)), in the step of the write (R202). -/
def execWrCmd (w : Word) (s : State) : Result :=
  caseCommand w (execNop · s) (execStart · s) (execStop s) (execEncCh · · s) (execEncLed · s) (execEncStrip · s)
    (execIllegalReservedBits · s) (execIllegalOp67 · s) (execIllegalOp8F · s)

/-- RD.STATUS (R203). -/
def execRdStatus (s : State) : Result :=
  .next (s.setRdata s.statusWord)

/-- WR.STATUS (R204). -/
def execWrStatus (v : Word) (s : State) : Result :=
  .next (s.writeStatus v)

/-- RD.COLOR (R205). -/
def execRdColor (s : State) : Result :=
  .next (s.setRdata s.color.word)

/-- WR.COLOR (R206). -/
def execWrColor (v : Word) (s : State) : Result :=
  .next { s with color := colorOfWord v }

/-- RD.LEN (R207). -/
def execRdLen (s : State) : Result :=
  .next (s.setRdata s.lenWord)

/-- WR.LEN: ignored (R208). -/
def execWrLen (_v : Word) (s : State) : Result :=
  .next s

/-- RD.FAULT_COUNT (R209). -/
def execRdFaultCount (s : State) : Result :=
  .next (s.setRdata s.faultCount)

/-- WR.FAULT_COUNT: ignored (R210). -/
def execWrFaultCount (_v : Word) (s : State) : Result :=
  .next s

/-- RD.ERR (R211). -/
def execRdErr (s : State) : Result :=
  .next (s.setRdata s.err.word)

/-- WR.ERR: ignored (R212). -/
def execWrErr (_v : Word) (s : State) : Result :=
  .next s

/-- RD.CONFIG (R214). -/
def execRdConfig (s : State) : Result :=
  .next (s.setRdata (configWord s.cfg))

/-- WR.CONFIG: ignored (R215). -/
def execWrConfig (_v : Word) (s : State) : Result :=
  .next s

/-- RD.PATTERNS (R216). -/
def execRdPatterns (s : State) : Result :=
  .next (s.setRdata (patternsWord s.cfg))

/-- WR.PATTERNS: ignored (R217). -/
def execWrPatterns (_v : Word) (s : State) : Result :=
  .next s

end Sys2Proof.Machine
end

