-- ==== Sys2Proof/Machine/Dispatch.lean ====
section
/-! DEFINITION. Sys2Proof/Machine/Dispatch.lean: the meaning of every instruction. -/

namespace Sys2Proof.Machine

def exec (i : Instr) (s : State) : Host.Outcome State Fault Refusal :=
  match i with
  | .nop hint => Sys2Proof.Machine.execNop hint s
  | .start len => Sys2Proof.Machine.execStart len s
  | .stop => Sys2Proof.Machine.execStop s
  | .encCh offset value => Sys2Proof.Machine.execEncCh offset value s
  | .encLed offset => Sys2Proof.Machine.execEncLed offset s
  | .encStrip ledIdx => Sys2Proof.Machine.execEncStrip ledIdx s
  | .illegalOp67 w => Sys2Proof.Machine.execIllegalOp67 w s
  | .illegalOp8F w => Sys2Proof.Machine.execIllegalOp8F w s
  | .illegalReservedBits w => Sys2Proof.Machine.execIllegalReservedBits w s
  | .rdCmd => Sys2Proof.Machine.execRdCmd s
  | .wrCmd w => Sys2Proof.Machine.execWrCmd w s
  | .rdStatus => Sys2Proof.Machine.execRdStatus s
  | .wrStatus v => Sys2Proof.Machine.execWrStatus v s
  | .rdColor => Sys2Proof.Machine.execRdColor s
  | .wrColor v => Sys2Proof.Machine.execWrColor v s
  | .rdLen => Sys2Proof.Machine.execRdLen s
  | .wrLen v => Sys2Proof.Machine.execWrLen v s
  | .rdFaultCount => Sys2Proof.Machine.execRdFaultCount s
  | .wrFaultCount v => Sys2Proof.Machine.execWrFaultCount v s
  | .rdErr => Sys2Proof.Machine.execRdErr s
  | .wrErr v => Sys2Proof.Machine.execWrErr v s
  | .rdConfig => Sys2Proof.Machine.execRdConfig s
  | .wrConfig v => Sys2Proof.Machine.execWrConfig v s
  | .rdPatterns => Sys2Proof.Machine.execRdPatterns s
  | .wrPatterns v => Sys2Proof.Machine.execWrPatterns v s
  | .rdFb o width => Sys2Proof.Machine.execRdFb o width s
  | .wrFb o width v => Sys2Proof.Machine.execWrFb o width v s
  | .accessFault a => Sys2Proof.Machine.execAccessFault a s

end Sys2Proof.Machine
end

