-- ==== Sys2Proof/Machine/Step.lean ====
section
/-! DEFINITION. Sys2Proof/Machine/Step.lean: one step of the machine. One agent takes one step, whole (R78); the
instruction of a host access runs in the step of the access (R100, R202). -/

namespace Sys2Proof.Machine

/-- One step: the next event happens. -/
def step (s : State) : Host.Outcome State Fault Refusal :=
  match s.nextEvent with
  | .host a => exec (s.decodeHost a) s.popEvent
  | .beat => .next s.popEvent.takeBeat
  | .faultBeat => .next s.popEvent.takeFaultBeat
  | .sequencer => .next s.popEvent.takeSequencer
  | .reset => .next s.popEvent.platformReset

/-- The state with the row's instruction as the host's next access (log entry 9): a command word as a 32-bit write to
CMD (R100), any other row as an access. -/
def State.withFetchWord (s : State) (nbits w : Nat) : State :=
  match codeOfTableWord nbits w with
  | some c => s.issue [c.toAccess]
  | none => s

end Sys2Proof.Machine
end

