-- ==== Sys2Proof/Machine/Assembler.lean ====
section
/-! DEFINITION. Sys2Proof/Machine/Assembler.lean: the assembler and the pseudo-instructions (R110, R111), on lines taken
apart already; Machine/AsmText.lean reads them from text (log entry 22). -/

namespace Sys2Proof.Machine

/-- The register names, which stand for their offsets (R110, R71). -/
inductive RegName where
  | cmd
  | status
  | color
  | len
  | faultCount
  | err
  | config
  | patterns
deriving DecidableEq, Repr

/-- The offset a register name stands for (R71). -/
def RegName.offset : RegName → Offset
  | .cmd => 0x00
  | .status => 0x04
  | .color => 0x08
  | .len => 0x0C
  | .faultCount => 0x10
  | .err => 0x14
  | .config => 0x18
  | .patterns => 0x1C

/-- What a load or a store names: a register (R110), `FB+i` (R110), or an offset written as a number. DESIGN CHOICE (log
entry 25): R110's table has no bare offset, the spec's own vectors do (`ld32 0x0020`, 95_test_vectors.md A20). -/
inductive Place where
  | reg (r : RegName)
  | fb (i : Nat)
  | offset (o : Nat)
deriving DecidableEq, Repr

/-- One line of assembler: the instructions of R110 and the pseudo-instructions of R111, operands as written. DESIGN CHOICE
(log entry 25): a load or a store may have any width at any place, as the spec's own vectors write `ld8 STATUS`
(95_test_vectors.md A19 and P2), where R110's table has registers at 32 bits only. -/
inductive AsmLine where
  | nop
  | start (len : Nat)
  | stop
  | encCh (offset value : Nat)
  | encLed (offset : Nat)
  | encStrip (ledIdx : Nat)
  | load (width : Width) (place : Place)
  | store (width : Width) (place : Place) (v : Nat)
  | setcolor (g r b : Nat)
  | encchan (offset v : Nat)
  | encled (offset g r b : Nat)
  | encstrip (idx g r b : Nat)
  | clrdone
  | waitdone
  | arm (len : Nat)
deriving DecidableEq, Repr

/-- An operand as a field of w bits, refused where it does not fit (R110). -/
def operand (w n : Nat) : Option (BitVec w) :=
  if n < 2 ^ w then some (BitVec.ofNat w n) else none

/-- The access that issues a command (R110: CMD <- its word). -/
def commandAccess (i : Instr) : Access := (encode i).toAccess

/-- `setcolor G, R, B` (R111). -/
def assembleSetcolor (g r b : Nat) : Option Access := do
  let g ← operand 8 g
  let r ← operand 8 r
  let b ← operand 8 b
  pure (.write RegName.color.offset .word (0#8 ++ g ++ r ++ b))

/-- The offset of `FB+i` (R110). -/
def fbOffset (i : Nat) : Option Offset := operand 16 (0x1000 + i)

/-- The offset a place stands for, refused where it does not fit 16 bits (log entry 22). -/
def Place.toOffset : Place → Option Offset
  | .reg r => some r.offset
  | .fb i => fbOffset i
  | .offset o => operand 16 o

/-- The accesses a line stands for, in order, or none where an operand does not fit (R110, R111). `waitdone` is one turn
of its loop: the branch is the host's own (R111). -/
def assemble : AsmLine → Option (List Access)
  | .nop => some [commandAccess (.nop 0)]
  | .start n => do pure [commandAccess (.start (← operand 16 n))]
  | .stop => some [commandAccess .stop]
  | .encCh o v => do pure [commandAccess (.encCh (← operand 16 o) (← operand 8 v))]
  | .encLed o => do pure [commandAccess (.encLed (← operand 16 o))]
  | .encStrip k => do pure [commandAccess (.encStrip (← operand 16 k))]
  | .load n p => do pure [.read (← p.toOffset) n]
  | .store n p v => do pure [.write (← p.toOffset) n ((← operand (8 * n.bytes) v).setWidth 32)]
  | .setcolor g r b => do pure [← assembleSetcolor g r b]
  | .encchan o v => do pure [commandAccess (.encCh (← operand 16 o) (← operand 8 v))]
  | .encled o g r b => do pure [← assembleSetcolor g r b, commandAccess (.encLed (← operand 16 o))]
  | .encstrip k g r b => do pure [← assembleSetcolor g r b, commandAccess (.encStrip (← operand 16 k))]
  | .clrdone => some [.write RegName.status.offset .word 0x1]
  | .waitdone => some [.read RegName.status.offset .word]
  | .arm n => do pure [commandAccess (.start (← operand 16 n))]

/-- The accesses of a program, line after line (R110). -/
def assembleAll : List AsmLine → Option (List Access)
  | [] => some []
  | l :: ls => do pure ((← assemble l) ++ (← assembleAll ls))

/-- `waitdone` goes round again: bit 0 of the value its read returned is 0 (R111). -/
def waitdoneAgain (rdata : Word) : Bool := !rdata.getLsbD 0

/-- One turn of the host's frame loop, around the lines that write FB (R263). -/
def frameLoop (writes : List AsmLine) : List AsmLine := .waitdone :: writes ++ [.clrdone]

end Sys2Proof.Machine
end

