-- ==== Sys2Proof/Machine/Wire.lean ====
section
/-! DEFINITION. Sys2Proof/Machine/Wire.lean: views of the state that no step reads: the physical line that WIRE stands for
(R175), its times (R16, R267), and the host addresses of the register window (R17). The polarity of the line is PRESUMED
(log entry 19). -/

namespace Sys2Proof.Machine

/-- The 8 line levels of a symbol byte, in the order they go out: high for a 1 bit (R15, R175). -/
def symbolLevels (o : WireOrder) (b : Byte) : List Bool :=
  match o with
  | .msbFirst => (List.range 8).map fun k => b.getLsbD (7 - k)
  | .lsbFirst => (List.range 8).map fun k => b.getLsbD k

/-- The line whenever no beat is in progress: low (R175). Every state of the model lies between beats. -/
def idleLevel : Bool := false

/-- The line levels of everything emitted so far, oldest first (R175). -/
def State.lineLevels (s : State) : List Bool :=
  s.wire.flatMap (symbolLevels s.cfg.wireOrder)

/-- The duration of one bit of a symbol: P_SYM_TIME / 8 (R175). -/
def bitTime (p : Params) : Rat := (p.symTime : Rat) / 8

/-- The line as levels with their durations, without the idle time between transfers, which the model does not record
(R175, R273). -/
def State.lineWaveform (s : State) : List (Bool × Rat) :=
  s.lineLevels.map fun level => (level, bitTime s.cfg)

/-- How long RB's bytes alone hold the line low: P_RESET_LEN symbols (R175, R267). -/
def gapTime (p : Params) : Nat := p.resetLen * p.symTime

/-- The integrator's duty of R267, which the core does not check: the gap lasts at least the LED part's latch time. -/
def gapLatches (p : Params) (latchTime : Nat) : Prop := latchTime ≤ gapTime p

/-- The host address of a window offset (R17, R70). -/
def hostAddress (p : Params) (o : Offset) : Nat := p.base + o.toNat

/-- The window offset of a host address, where it lies in this core's window (R70, R245). -/
def windowOffset (p : Params) (address : Nat) : Option Offset :=
  if p.base ≤ address ∧ address < p.base + 0x10000 then some (BitVec.ofNat 16 (address - p.base)) else none

end Sys2Proof.Machine
end

