-- ==== Sys2Proof/Safety.lean ====
section
/-! DEFINITION. Sys2Proof/Safety.lean: the invariant of the core (R45, with what makes it inductive), and what a run that
claims speak of is. -/

namespace Sys2Proof.Machine

/-- The first n entries of F, G, F, G, … (R180). -/
def alternating (n : Nat) : List Phase :=
  (List.range n).map fun k => if k % 2 = 0 then .frame else .gap

/-- What every state the machine reaches satisfies: R45 (i) to (vii), the build's legality (R7 to R12), the canonical
form and range of FB's cells (R33), LEN_REG's range while armed (R39), and the ghost trace (R180, R181). -/
structure State.Inv (s : State) : Prop where
  /-- The build is legal (R7, R10, R11, R12). -/
  buildLegal : s.cfg.legal = true
  /-- FB's cells are in canonical form. -/
  fbWf : Memory.wf s.fb = true
  /-- FB's cells lie in FB (R33). -/
  fbInRange : ∀ c ∈ s.fb, c.1 < s.cfg.fbLen
  /-- R45 (i). -/
  disarmed : s.armed = false →
    s.xcPend = false ∧ s.faultPend = false ∧ s.halted = false ∧ s.desc = ⟨.fb, 0, 0⟩ ∧ s.phase = .frame
  /-- R45 (ii). -/
  sourceOfPhase : s.armed = true → (s.phase = .frame ↔ s.desc.src = .fb)
  /-- R45 (iii). -/
  frameLength : s.armed = true → s.phase = .frame → s.desc.dlen = s.lenReg
  /-- R45 (iii), R39. -/
  lenRange : s.armed = true → 1 ≤ s.lenReg.toNat ∧ s.lenReg.toNat ≤ s.cfg.fbLen
  /-- R45 (iv). -/
  gapLength : s.armed = true → s.phase = .gap → s.desc.dlen = BitVec.ofNat 16 s.cfg.resetLen
  /-- R45 (v). -/
  posInRange : s.desc.pos.toNat ≤ s.desc.dlen.toNat
  /-- R45 (vi). -/
  xcPendIff : s.xcPend = true ↔ (s.armed = true ∧ 1 ≤ s.desc.dlen.toNat ∧ s.desc.pos = s.desc.dlen)
  /-- R45 (vii). -/
  haltedOnly : s.halted = true → s.armed = true ∧ s.faultPend = true ∧ s.cfg.faultPolicy = .debugHalt
  /-- R180. -/
  traceAlternates : s.phaseTrace = alternating s.phaseTrace.length
  /-- The trace ends in the phase the engine is in. -/
  traceEnds : s.armed = true → s.phaseTrace.getLast? = some s.phase
  /-- R181: after k complete steps the trace has k + 1 entries and DONE_SETS is the ceiling of k/2. -/
  doneSetsCount : s.doneSets = s.phaseTrace.length / 2

/-- No error has been recorded: the premise R236 gives every claim. -/
def State.noError (s : State) : Prop := s.err.code = .none

/-- No host write of FB has met a FRAME phase: the premise R264 gives claims about frame content. -/
def State.raceFree (s : State) : Prop := s.race = false

/-- The host's write window is open: from the FRAME -> GAP step to the GAP -> FRAME step (R264). -/
def State.writeWindow (s : State) : Prop := s.armed = true ∧ s.phase = .gap

/-- The engine is running: armed and not frozen (R184). -/
def State.running (s : State) : Prop := s.armed = true ∧ s.halted = false

/-- Every byte a frame of this state sends is a pattern: the premise R271 gives claims about what LEDs display. -/
def State.framePatterns (s : State) : Prop :=
  ∀ i, i < s.lenReg.toNat → s.fbByte i = s.cfg.high ∨ s.fbByte i = s.cfg.low

end Sys2Proof.Machine
end

