-- ==== Sys2Proof/Certificates/Slice0/Obligations.lean ====
section
/-! DEFINITION. Sys2Proof/Certificates/Slice0/Obligations.lean: the statements for the provers, from the numbered rules of
spec/. A witness of each statement's hypotheses stands in Sys2Proof/Tests/Slice0.lean. -/

open Sys2Proof Sys2Proof.Machine

/-! ### Encoding -/

/-- R101, R104, R106, R109, R71: for every well-formed instruction, decoding its encoding gives it back, with every
operand at every value the encoding admits. -/
def Obligations.DecodeOfEncodeIsIdentity : Prop :=
  ∀ (L : Nat) (i : Instr), WellFormed L i = true → decode L (encode i) = i

/-- R108, R200: decoding is total, every word and every access decodes to a well-formed instruction, and to one whose
encoding is that word or access: no bit is dropped and no two codes share a meaning. -/
def Obligations.EncodeOfDecodeIsIdentity : Prop :=
  ∀ (L : Nat) (c : Code), WellFormed L (decode L c) = true ∧ encode (decode L c) = c

/-- R104's match and mask of each command, with the fields of R102; and the reserved opcodes. -/
def Obligations.CommandsDecodeByMatchAndMask : Prop :=
  ∀ w : Word,
    (∀ h, decodeCommand w = .nop h ↔ w &&& 0xF0000000#32 = 0x00000000#32 ∧ h = w.extractLsb' 0 28) ∧
    (∀ n, decodeCommand w = .start n ↔ w &&& 0xFFFF0000#32 = 0x10000000#32 ∧ n = w.extractLsb' 0 16) ∧
    (decodeCommand w = .stop ↔ w = 0x20000000#32) ∧
    (∀ o v, decodeCommand w = .encCh o v ↔
      w &&& 0xFF000000#32 = 0x30000000#32 ∧ o = w.extractLsb' 8 16 ∧ v = w.extractLsb' 0 8) ∧
    (∀ o, decodeCommand w = .encLed o ↔ w &&& 0xFFFF0000#32 = 0x40000000#32 ∧ o = w.extractLsb' 0 16) ∧
    (∀ k, decodeCommand w = .encStrip k ↔ w &&& 0xFFFF0000#32 = 0x50000000#32 ∧ k = w.extractLsb' 0 16) ∧
    ((∃ u, decodeCommand w = .illegalOp67 u ∨ decodeCommand w = .illegalOp8F u) ↔ 6 ≤ (w.extractLsb' 28 4).toNat)

/-- A few words and accesses written out from R104 and R71 decode to what they stand for. -/
def Obligations.SpecCodesDecode : Prop :=
  decodeCommand 0x0FFFFFFF#32 = .nop 0xFFFFFFF#28 ∧
  decodeCommand 0x10000030#32 = .start 48#16 ∧
  decodeCommand 0x20000000#32 = .stop ∧
  decodeCommand 0x3000085A#32 = .encCh 8#16 0x5A#8 ∧
  decodeCommand 0x40000018#32 = .encLed 24#16 ∧
  decodeCommand 0x50000001#32 = .encStrip 1#16 ∧
  decodeCommand 0x60000000#32 = .illegalOp67 0x60000000#32 ∧
  decodeCommand 0xF1234567#32 = .illegalOp8F 0xF1234567#32 ∧
  decodeCommand 0x31000000#32 = .illegalReservedBits 0x31000000#32 ∧
  decodeAccess 48 (.read 0x0004#16 .word) = .rdStatus ∧
  decodeAccess 48 (.write 0x0008#16 .word 0xFF00FF00#32) = .wrColor 0xFF00FF00#32 ∧
  decodeAccess 48 (.write 0x101E#16 .byte 0xF8#32) = .wrFb 0x101E#16 .byte 0xF8#32 ∧
  decodeAccess 48 (.read 0x1030#16 .word) = .accessFault (.read 0x1030#16 .word)

/-! ### The step -/

/-- R78, R200: a host access at the head of the agenda is one step: the step is the decoded instruction, run at the
state with that access taken up. -/
def Obligations.StepRunsDecodedAccess : Prop :=
  ∀ (s : State) (a : Access) (rest : List Event), s.agenda = .host a :: rest →
    step s = exec (decodeAccess s.cfg.fbLen a) { s with agenda := rest }

/-- R100, R109, R202: where the host's next access is the one that issues a well-formed instruction i, a command being a
32-bit write of its word to CMD, the step is exec of i. -/
def Obligations.StepRunsIssuedInstruction : Prop :=
  ∀ (s : State) (i : Instr) (rest : List Event), WellFormed s.cfg.fbLen i = true →
    s.agenda = .host (encode i).toAccess :: rest → step s = exec i { s with agenda := rest }

/-- The model's choice, log entry 2 (R6, U4): with nothing fixed, the step takes up the next free event, whatever it is,
and the step after it the next one. -/
def Obligations.EmptyAgendaTakesAFreeEvent : Prop :=
  ∀ s : State, s.agenda = [] →
    step s = step { s with agenda := [Config.freeEvent s.freeEvents], freeEvents := s.freeEvents + 1 }

/-! ### Errors and illegal words -/

/-- R236, the recording: the first error is kept, a further one sets MULTI. -/
def Obligations.FirstErrorIsKept : Prop :=
  ∀ (e : Err) (c : ErrCode) (op : BitVec 4) (info : BitVec 16),
    (e.code = .none → e.record c op info = ⟨c, e.multi, op, info⟩) ∧
    (e.code ≠ .none → e.record c op info = ⟨e.code, true, e.op, e.info⟩)

/-- R105, R106: a word with a reserved opcode or a reserved bit set raises E_ILLEGAL with OP = w[31:28] and
INFO = w[15:0], and has no other effect; so does each of the three ILLEGAL instructions, on the word it carries. That one
of them does so on a word that does not decode to it is the model's choice (log entry 11). -/
def Obligations.IllegalWordsRaiseIllegal : Prop :=
  ∀ (w : Word) (s : State), ∃ t,
    t = { s with err := s.err.record .illegal (w.extractLsb' 28 4) (w.extractLsb' 0 16) } ∧
    ((6 ≤ (w.extractLsb' 28 4).toNat ∨ HasReservedBitSet w) → exec (.wrCmd w) s = .next t) ∧
    exec (.illegalOp67 w) s = .next t ∧ exec (.illegalOp8F w) s = .next t ∧
    exec (.illegalReservedBits w) s = .next t

/-- R235: errors are precise. Whatever instruction changes ERR changes nothing else, but for the 0 that a refused read
returns. -/
def Obligations.ErrorsArePrecise : Prop :=
  ∀ (i : Instr) (s t : State), exec i s = .next t → t.err ≠ s.err →
    t = { s with err := t.err, rdata := t.rdata } ∧ (t.rdata = s.rdata ∨ t.rdata = 0)

/-- R236, R242, R44: no step but a reset clears ERR or changes the error it keeps. -/
def Obligations.ErrIsSticky : Prop :=
  ∀ s t : State, step s = .next t → s.nextEvent ≠ .reset → s.err.code ≠ .none →
    t.err = s.err ∨ t.err = { s.err with multi := true }

/-- R76, R77, R200, R233: an access the core does not accept writes nothing, reads as 0, and raises E_ACCESS with OP = 0 and
INFO = the offset; as decoded, and as the instruction ACCESS_FAULT. That ACCESS_FAULT does so with an access the core
accepts, which decodes to another instruction, is the model's choice (log entry 11). -/
def Obligations.RefusedAccessRaisesAccessError : Prop :=
  ∀ (a : Access) (s : State),
    (¬ a.Accepted s.cfg.fbLen → decodeAccess s.cfg.fbLen a = .accessFault a) ∧
    (∀ o n, a = .read o n →
      exec (.accessFault a) s = .next { s with err := s.err.record .access 0 o, rdata := 0 }) ∧
    (∀ o n v, a = .write o n v →
      exec (.accessFault a) s = .next { s with err := s.err.record .access 0 o })

/-! ### The channel encoder -/

/-- R130: enc(b) has 8 symbols, and symbol j is P_HIGH where bit 7 - j of b is 1, else P_LOW. -/
def Obligations.WaveformIsMsbFirst : Prop :=
  ∀ (p : Params) (b : Byte), (enc p b).length = 8 ∧
    ∀ j, j < 8 → (enc p b)[j]? = some (if b.getLsbD (7 - j) then p.high else p.low)

/-- R135: decoding the symbols (P_HIGH to 1, P_LOW to 0), most significant first, gives the intensity back; and every
symbol is one of the two patterns. -/
def Obligations.WaveformRoundTrips : Prop :=
  ∀ (p : Params) (b : Byte), p.high ≠ p.low →
    (∀ x ∈ enc p b, x = p.high ∨ x = p.low) ∧
    ((List.range 8).map fun j => (if (enc p b).getD j 0 = p.high then 1 else 0) * 2 ^ (7 - j)).sum = b.toNat

/-- R131, R213: where OFFSET + 8 ≤ L, ENC_CH completes: enc(VALUE) stands in FB from OFFSET on, every other byte of FB
reads as before, RACE is set if the write is a race, and nothing else changes. -/
def Obligations.EncChWritesTheWaveform : Prop :=
  ∀ (s : State) (offset : BitVec 16) (value : Byte), offset.toNat + 8 ≤ s.cfg.fbLen →
    ∃ t, exec (.encCh offset value) s = .next t ∧
      t = { s with fb := t.fb, race := t.race } ∧
      (t.race = true ↔ s.race = true ∨ (s.armed = true ∧ s.phase = .frame ∧ s.halted = false)) ∧
      (∀ j, j < 8 → t.fbByte (offset.toNat + j) = if value.getLsbD (7 - j) then s.cfg.high else s.cfg.low) ∧
      (∀ a, a < offset.toNat ∨ offset.toNat + 8 ≤ a → t.fbByte a = s.fbByte a)

/-- R132, R103, R213: where OFFSET + 24 ≤ L, ENC_LED completes: slot k of the LED at OFFSET holds the waveform of the
channel P_ORDER[k] names, every other byte of FB reads as before, RACE is set if the write is a race, and nothing else
changes (COLOR is read, not changed). -/
def Obligations.EncLedWritesThreeSlots : Prop :=
  ∀ (s : State) (offset : BitVec 16), offset.toNat + 24 ≤ s.cfg.fbLen →
    ∃ t, exec (.encLed offset) s = .next t ∧
      t = { s with fb := t.fb, race := t.race } ∧
      (t.race = true ↔ s.race = true ∨ (s.armed = true ∧ s.phase = .frame ∧ s.halted = false)) ∧
      (∀ j, j < 8 →
        t.fbByte (offset.toNat + j) =
          (if (s.color.channel s.cfg.order.slot0).getLsbD (7 - j) then s.cfg.high else s.cfg.low) ∧
        t.fbByte (offset.toNat + 8 + j) =
          (if (s.color.channel s.cfg.order.slot1).getLsbD (7 - j) then s.cfg.high else s.cfg.low) ∧
        t.fbByte (offset.toNat + 16 + j) =
          (if (s.color.channel s.cfg.order.slot2).getLsbD (7 - j) then s.cfg.high else s.cfg.low)) ∧
      (∀ a, a < offset.toNat ∨ offset.toNat + 24 ≤ a → t.fbByte a = s.fbByte a)

/-- R133, R213: where LEDIDX < P_NLEDS, in a legal build, ENC_STRIP completes, with the state that ENC_LED gives at
OFFSET = LEDIDX x 24: it stores to FB[24 LEDIDX .. 24 LEDIDX + 23] and to nothing else. -/
def Obligations.EncStripIsEncLedAtTheLed : Prop :=
  ∀ (s : State) (k : BitVec 16), s.cfg.legal = true → k.toNat < s.cfg.nleds →
    ∃ t, exec (.encStrip k) s = .next t ∧
      exec (.encLed (BitVec.ofNat 16 (k.toNat * 24))) s = .next t ∧
      (BitVec.ofNat 16 (k.toNat * 24)).toNat = k.toNat * 24 ∧
      t = { s with fb := t.fb, race := t.race } ∧
      (∀ j, j < 8 → t.fbByte (k.toNat * 24 + j) =
        if (s.color.channel s.cfg.order.slot0).getLsbD (7 - j) then s.cfg.high else s.cfg.low) ∧
      (∀ a, a < k.toNat * 24 ∨ k.toNat * 24 + 24 ≤ a → t.fbByte a = s.fbByte a)

/-- R131, R132, R133, R233: an encoder command whose range passes the end of FB records E_BOUNDS with its opcode and its
operand, and does nothing else. -/
def Obligations.EncoderOutOfBoundsIsRefused : Prop :=
  ∀ s : State,
    (∀ offset value, s.cfg.fbLen < offset.toNat + 8 →
      exec (.encCh offset value) s = .next { s with err := s.err.record .bounds 0x3 offset }) ∧
    (∀ offset, s.cfg.fbLen < offset.toNat + 24 →
      exec (.encLed offset) s = .next { s with err := s.err.record .bounds 0x4 offset }) ∧
    (∀ k, s.cfg.nleds ≤ k.toNat →
      exec (.encStrip k) s = .next { s with err := s.err.record .bounds 0x5 k })

/-- R134: ENC_LED under two colors that agree on a slot's channel writes the same bytes to that slot, whatever the
other channels are. -/
def Obligations.ChannelsAreIndependent : Prop :=
  ∀ (s : State) (c d : Color) (offset : BitVec 16), offset.toNat + 24 ≤ s.cfg.fbLen →
    ∃ t u, exec (.encLed offset) { s with color := c } = .next t ∧
      exec (.encLed offset) { s with color := d } = .next u ∧
      (c.channel s.cfg.order.slot0 = d.channel s.cfg.order.slot0 →
        ∀ j, j < 8 → t.fbByte (offset.toNat + j) = u.fbByte (offset.toNat + j)) ∧
      (c.channel s.cfg.order.slot1 = d.channel s.cfg.order.slot1 →
        ∀ j, j < 8 → t.fbByte (offset.toNat + 8 + j) = u.fbByte (offset.toNat + 8 + j)) ∧
      (c.channel s.cfg.order.slot2 = d.channel s.cfg.order.slot2 →
        ∀ j, j < 8 → t.fbByte (offset.toNat + 16 + j) = u.fbByte (offset.toNat + 16 + j))

/-- R136, R137: an encoder command does the same to FB and to ERR in every engine state: only FB, COLOR, ERR and the
build decide. -/
def Obligations.EncoderIgnoresTheEngine : Prop :=
  ∀ (s u : State) (i : Instr),
    ((∃ o v, i = .encCh o v) ∨ (∃ o, i = .encLed o) ∨ (∃ k, i = .encStrip k)) →
    u.fb = s.fb → u.color = s.color → u.err = s.err → u.cfg = s.cfg →
    ∃ t v, exec i s = .next t ∧ exec i u = .next v ∧ v.fb = t.fb ∧ v.err = t.err

/-! ### Engine control -/

/-- R155, R107: every word with OP = 0 is a NOP, and NOP leaves every field unchanged. -/
def Obligations.NopDoesNothing : Prop :=
  (∀ (h : BitVec 28) (s : State), exec (.nop h) s = .next s) ∧
  (∀ (w : Word) (s : State), w.extractLsb' 28 4 = 0#4 → exec (.wrCmd w) s = .next s)

/-- R152: while disarmed and with 1 ≤ LEN ≤ L, START completes: FB[0 .. LEN-1] holds the fill and the rest of FB reads
as before, DONE is cleared, the engine is armed in FRAME at offset 0 with nothing pending, the ghost trace restarts, and
nothing else changes (FAULT_COUNT, ERR, COLOR, RACE among them). -/
def Obligations.StartArmsTheEngine : Prop :=
  ∀ (s : State) (len : BitVec 16), s.armed = false → 1 ≤ len.toNat → len.toNat ≤ s.cfg.fbLen →
    ∃ t, exec (.start len) s = .next t ∧
      t = { s with
        fb := t.fb, done := false, lenReg := len, phase := .frame, desc := ⟨.fb, len, 0⟩, xcPend := false,
        faultPend := false, halted := false, armed := true, phaseTrace := [.frame], doneSets := 0 } ∧
      (∀ i, i < len.toNat → t.fbByte i = match s.cfg.startFill with | .low => s.cfg.low | .zero => 0x00#8) ∧
      (∀ i, len.toNat ≤ i → t.fbByte i = s.fbByte i)

/-- R151: the checks of START in their order, on the word written to CMD: reserved bits, then armed, then the length; a
failed START changes nothing but ERR. -/
def Obligations.StartChecksInOrder : Prop :=
  ∀ (s : State) (w : Word), w.extractLsb' 28 4 = 0x1#4 →
    (w.extractLsb' 16 12 ≠ 0#12 →
      exec (.wrCmd w) s = .next { s with err := s.err.record .illegal 0x1 (w.extractLsb' 0 16) }) ∧
    (w.extractLsb' 16 12 = 0#12 → s.armed = true →
      exec (.wrCmd w) s = .next { s with err := s.err.record .rearm 0x1 (w.extractLsb' 0 16) }) ∧
    (w.extractLsb' 16 12 = 0#12 → s.armed = false →
      ((w.extractLsb' 0 16).toNat = 0 ∨ s.cfg.fbLen < (w.extractLsb' 0 16).toNat) →
      exec (.wrCmd w) s = .next { s with err := s.err.record .cfg 0x1 (w.extractLsb' 0 16) })

/-- R156: STOP disarms the engine and leaves DONE, FB, LEN_REG, FAULT_COUNT, ERR and COLOR; in a state that meets the
invariant, STOP while disarmed changes nothing; the STOP opcode with another bit set is illegal. -/
def Obligations.StopDisarmsTheEngine : Prop :=
  (∀ s : State, exec .stop s = .next { s with
    armed := false, phase := .frame, desc := ⟨.fb, 0, 0⟩, xcPend := false, faultPend := false, halted := false }) ∧
  (∀ s : State, s.Inv → s.armed = false → exec .stop s = .next s) ∧
  (∀ (s : State) (w : Word), w.extractLsb' 28 4 = 0x2#4 → w.extractLsb' 0 28 ≠ 0#28 →
    exec (.wrCmd w) s = .next { s with err := s.err.record .illegal 0x2 (w.extractLsb' 0 16) })

/-- R154, R157: while halted START is refused with E_REARM; after STOP it is legal again, whatever the engine was doing,
and runs R152 in full: it refills FB[0 .. LEN-1] and no other byte, clears DONE and restarts at FRAME from offset 0. -/
def Obligations.RestartNeedsAStop : Prop :=
  (∀ (s : State) (len : BitVec 16), s.Inv → s.halted = true →
    exec (.start len) s = .next { s with err := s.err.record .rearm 0x1 len }) ∧
  (∀ (s : State) (len : BitVec 16), 1 ≤ len.toNat → len.toNat ≤ s.cfg.fbLen →
    ∃ u t, exec .stop s = .next u ∧ exec (.start len) u = .next t ∧
      t = { s with
        fb := t.fb, done := false, lenReg := len, phase := .frame, desc := ⟨.fb, len, 0⟩, xcPend := false,
        faultPend := false, halted := false, armed := true, phaseTrace := [.frame], doneSets := 0 } ∧
      (∀ i, i < len.toNat → t.fbByte i = match s.cfg.startFill with | .low => s.cfg.low | .zero => 0x00#8) ∧
      (∀ i, len.toNat ≤ i → t.fbByte i = s.fbByte i))

/-! ### Register accesses -/

/-- R202, R108: a write of a word to CMD completes, on every word and in every state, with what the decoded command
does, in the step of the write. -/
def Obligations.CommandWriteExecutesTheDecodedWord : Prop :=
  ∀ (w : Word) (s : State), ∃ t, exec (.wrCmd w) s = .next t ∧ exec (decodeCommand w) s = .next t

/-- R203, R49: a read of STATUS returns the flags, each in its bit, and 0 in bits 31:7; nothing else changes. -/
def Obligations.StatusReadReportsTheFlags : Prop :=
  ∀ s : State, ∃ t, exec .rdStatus s = .next t ∧ t = { s with rdata := t.rdata } ∧
    t.rdata.getLsbD 0 = s.done ∧ t.rdata.getLsbD 1 = s.armed ∧ t.rdata.getLsbD 2 = decide (s.phase = .gap) ∧
    t.rdata.getLsbD 3 = s.halted ∧ t.rdata.getLsbD 4 = s.xcPend ∧ t.rdata.getLsbD 5 = s.faultPend ∧
    t.rdata.getLsbD 6 = decide (s.err.code ≠ .none) ∧ t.rdata.extractLsb' 7 25 = 0#25

/-- R204: a write of STATUS clears DONE where bit 0 is 1 and does nothing else; the host cannot set DONE. -/
def Obligations.StatusWriteClearsDone : Prop :=
  ∀ (s : State) (v : Word),
    exec (.wrStatus v) s = .next { s with done := if v.getLsbD 0 then false else s.done }

/-- R205, R206: a write of COLOR stores the three fields and nothing else; a read gives them back with bits 31:24 at 0,
and changes nothing. -/
def Obligations.ColorWriteThenRead : Prop :=
  ∀ (s : State) (v : Word), ∃ u t, exec (.wrColor v) s = .next u ∧ exec .rdColor u = .next t ∧
    u = { s with color := ⟨v.extractLsb' 16 8, v.extractLsb' 8 8, v.extractLsb' 0 8⟩ } ∧
    t = { u with rdata := v &&& 0x00FFFFFF#32 }

/-- R201, R205, R207, R209: a read of CMD returns 0, of COLOR the three intensities, of LEN the frame length, of
FAULT_COUNT the count; no state changes. -/
def Obligations.PlainRegisterReads : Prop :=
  ∀ s : State,
    exec .rdCmd s = .next { s with rdata := 0x00000000#32 } ∧
    exec .rdColor s = .next { s with rdata := 0x00#8 ++ s.color.g ++ s.color.r ++ s.color.b } ∧
    exec .rdLen s = .next { s with rdata := s.lenReg.setWidth 32 } ∧
    exec .rdFaultCount s = .next { s with rdata := s.faultCount }

/-- R211, R53, R231: a read of ERR returns CODE, MULTI, OP and INFO in their bits and 0 in the reserved ones; ERR is not
cleared and nothing else changes. -/
def Obligations.ErrReadReportsTheError : Prop :=
  ∀ s : State, ∃ t, exec .rdErr s = .next t ∧ t = { s with rdata := t.rdata } ∧
    (t.rdata.extractLsb' 0 4).toNat =
      (match s.err.code with | .none => 0 | .cfg => 1 | .bounds => 2 | .rearm => 3 | .illegal => 4 | .access => 5) ∧
    t.rdata.getLsbD 4 = s.err.multi ∧ t.rdata.extractLsb' 5 3 = 0#3 ∧ t.rdata.extractLsb' 8 4 = s.err.op ∧
    t.rdata.extractLsb' 12 4 = 0#4 ∧ t.rdata.extractLsb' 16 16 = s.err.info

/-- R214, R54: in a legal build, a read of CONFIG returns L, P_RESET_LEN, P_FAULT_POLICY, P_START_FILL and P_WIRE_ORDER
in their bits, whole, and changes nothing. -/
def Obligations.ConfigReadReportsTheBuild : Prop :=
  ∀ s : State, s.cfg.legal = true →
    ∃ t, exec .rdConfig s = .next t ∧ t = { s with rdata := t.rdata } ∧
      (t.rdata.extractLsb' 0 16).toNat = s.cfg.nleds * 24 ∧
      (t.rdata.extractLsb' 16 8).toNat = s.cfg.resetLen ∧
      t.rdata.getLsbD 24 = decide (s.cfg.faultPolicy = .debugHalt) ∧
      t.rdata.getLsbD 25 = decide (s.cfg.startFill = .zero) ∧
      t.rdata.getLsbD 26 = decide (s.cfg.wireOrder = .lsbFirst) ∧
      t.rdata.extractLsb' 27 5 = 0#5

/-- R216, R55: a read of PATTERNS returns P_LOW, P_HIGH and the channel of each slot (G = 0, R = 1, B = 2) in their bits
and 0 above, and changes nothing. -/
def Obligations.PatternsReadReportsTheSymbols : Prop :=
  ∀ s : State, ∃ t, exec .rdPatterns s = .next t ∧ t = { s with rdata := t.rdata } ∧
    t.rdata.extractLsb' 0 8 = s.cfg.low ∧ t.rdata.extractLsb' 8 8 = s.cfg.high ∧
    t.rdata.extractLsb' 16 2 = (match s.cfg.order.slot0 with | .g => 0#2 | .r => 1#2 | .b => 2#2) ∧
    t.rdata.extractLsb' 18 2 = (match s.cfg.order.slot1 with | .g => 0#2 | .r => 1#2 | .b => 2#2) ∧
    t.rdata.extractLsb' 20 2 = (match s.cfg.order.slot2 with | .g => 0#2 | .r => 1#2 | .b => 2#2) ∧
    t.rdata.extractLsb' 22 10 = 0#10

/-- R208, R210, R212, R215, R217: a write to LEN, FAULT_COUNT, ERR, CONFIG or PATTERNS is ignored, without error. -/
def Obligations.ReadOnlyRegisterWritesAreIgnored : Prop :=
  ∀ (s : State) (v : Word),
    exec (.wrLen v) s = .next s ∧ exec (.wrFaultCount v) s = .next s ∧ exec (.wrErr v) s = .next s ∧
    exec (.wrConfig v) s = .next s ∧ exec (.wrPatterns v) s = .next s

/-- R79, R76, R77: no read has a side effect. Whatever read access the host makes, the step completes and changes only
the value returned; a read that is refused returns 0 and records E_ACCESS besides. -/
def Obligations.ReadsHaveNoSideEffect : Prop :=
  ∀ (s : State) (o : Offset) (n : Width),
    ∃ t, exec (decodeAccess s.cfg.fbLen (.read o n)) s = .next t ∧
      ((Access.read o n).Accepted s.cfg.fbLen → t = { s with rdata := t.rdata }) ∧
      (¬ (Access.read o n).Accepted s.cfg.fbLen → t = { s with rdata := 0, err := s.err.record .access 0 o })

/-! ### The frame-buffer window -/

/-- R218, R72, R73: an accepted read of the FB window completes: byte k of the value is FB[i + k], the bits above the
width are 0, and nothing else changes (RACE among it). -/
def Obligations.FbReadIsLittleEndian : Prop :=
  ∀ (s : State) (o : Offset) (n : Width), InFbWindow s.cfg.fbLen o n.bytes →
    ∃ t, exec (.rdFb o n) s = .next t ∧ t = { s with rdata := t.rdata } ∧
      (∀ k, k < n.bytes → t.rdata.extractLsb' (8 * k) 8 = s.fbByte (o.toNat - 0x1000 + k)) ∧
      (∀ b, 8 * n.bytes ≤ b → t.rdata.getLsbD b = false)

/-- R219, R213: an accepted write of the FB window completes: FB[i + k] is bits 8k+7:8k of the value, every other byte
of FB reads as before, RACE is set if the write is a race, and nothing else changes. -/
def Obligations.FbWriteIsLittleEndian : Prop :=
  ∀ (s : State) (o : Offset) (n : Width) (v : Word), InFbWindow s.cfg.fbLen o n.bytes →
    ∃ t, exec (.wrFb o n v) s = .next t ∧ t = { s with fb := t.fb, race := t.race } ∧
      (t.race = true ↔ s.race = true ∨ (s.armed = true ∧ s.phase = .frame ∧ s.halted = false)) ∧
      (∀ k, k < n.bytes → t.fbByte (o.toNat - 0x1000 + k) = v.extractLsb' (8 * k) 8) ∧
      (∀ a, a < o.toNat - 0x1000 ∨ o.toNat - 0x1000 + n.bytes ≤ a → t.fbByte a = s.fbByte a)

/-- R218, R219, R80: a read of the FB window after a write of the same bytes returns the value written, cut to the
width. -/
def Obligations.FbReadAfterWrite : Prop :=
  ∀ (s : State) (o : Offset) (n : Width) (v : Word), InFbWindow s.cfg.fbLen o n.bytes →
    ∃ t u, exec (.wrFb o n v) s = .next t ∧ exec (.rdFb o n) t = .next u ∧
      u.rdata.toNat = v.toNat % 2 ^ (8 * n.bytes)

/-! ### The transfer engine and the sequencer -/

/-- R172, R173: where a beat is enabled, a beat emits the source's byte at DESC.POS (0x00 for RB), advances DESC.POS, sets
XC_PEND on the last byte of the transfer, and changes nothing else. -/
def Obligations.BeatMovesOneByte : Prop :=
  ∀ (s : State) (rest : List Event), s.agenda = .beat :: rest →
    s.armed = true → s.halted = false → s.xcPend = false → s.desc.pos.toNat < s.desc.dlen.toNat →
    ∃ t, step s = .next t ∧
      t = { s with
        agenda := rest
        wire := s.wire ++ [match s.desc.src with | .fb => s.fbByte s.desc.pos.toNat | .rb => 0x00#8]
        desc := ⟨s.desc.src, s.desc.dlen, s.desc.pos + 1⟩
        xcPend := decide (s.desc.pos.toNat + 1 = s.desc.dlen.toNat) } ∧
      t.desc.pos.toNat = s.desc.pos.toNat + 1

/-- R174: where a beat is enabled, a faulting beat emits a free byte (log entry 6), advances DESC.POS, sets FAULT_PEND,
and XC_PEND on the last byte; the next draw is another one; nothing else changes. -/
def Obligations.FaultingBeatEmitsADraw : Prop :=
  ∀ (s : State) (rest : List Event), s.agenda = .faultBeat :: rest →
    s.armed = true → s.halted = false → s.xcPend = false → s.desc.pos.toNat < s.desc.dlen.toNat →
    step s = .next { s with
      agenda := rest
      wire := s.wire ++ [Config.wireDraw s.draws]
      draws := s.draws + 1
      desc := ⟨s.desc.src, s.desc.dlen, s.desc.pos + 1⟩
      xcPend := decide (s.desc.pos.toNat + 1 = s.desc.dlen.toNat)
      faultPend := true }

/-- R172, R179, R184: the transfer engine is stuck unless ARMED = 1, HALTED = 0, XC_PEND = 0 and DESC.POS < DESC.DLEN; the
sequencer is stuck unless ARMED = 1, HALTED = 0 and a notification is pending. A turn of a stuck agent changes nothing
(log entry 3). -/
def Obligations.StuckAgentsDoNothing : Prop :=
  ∀ (s : State) (rest : List Event),
    ((s.agenda = .beat :: rest ∨ s.agenda = .faultBeat :: rest) →
      ¬ (s.armed = true ∧ s.halted = false ∧ s.xcPend = false ∧ s.desc.pos.toNat < s.desc.dlen.toNat) →
      step s = .next { s with agenda := rest }) ∧
    (s.agenda = .sequencer :: rest →
      ¬ (s.armed = true ∧ s.halted = false ∧ (s.xcPend = true ∨ s.faultPend = true)) →
      step s = .next { s with agenda := rest })

/-- R176: the complete step FRAME -> GAP sets DONE, enters GAP with the reset buffer as its source, clears XC_PEND,
records the phase and the set, and changes nothing else. -/
def Obligations.FrameCompletesIntoGap : Prop :=
  ∀ (s : State) (rest : List Event), s.agenda = .sequencer :: rest →
    s.armed = true → s.halted = false → s.xcPend = true → s.faultPend = false → s.phase = .frame →
    step s = .next { s with
      agenda := rest
      done := true
      phase := .gap
      desc := ⟨.rb, BitVec.ofNat 16 s.cfg.resetLen, 0⟩
      xcPend := false
      phaseTrace := s.phaseTrace ++ [.gap]
      doneSets := s.doneSets + 1 }

/-- R178: the complete step GAP -> FRAME enters FRAME with FB[0 .. LEN_REG-1] as its source, clears XC_PEND, records the
phase, and changes nothing else: DONE is not written. -/
def Obligations.GapCompletesIntoFrame : Prop :=
  ∀ (s : State) (rest : List Event), s.agenda = .sequencer :: rest →
    s.armed = true → s.halted = false → s.xcPend = true → s.faultPend = false → s.phase = .gap →
    step s = .next { s with
      agenda := rest
      phase := .frame
      desc := ⟨.fb, s.lenReg, 0⟩
      xcPend := false
      phaseTrace := s.phaseTrace ++ [.frame] }

/-- R177, R179, R41: with a fault pending, the sequencer's step is the fault step, whether or not a transfer is complete:
FAULT_COUNT goes up by one mod 2^32, and FAULT_PEND is cleared under PRODUCTION, or HALTED set and FAULT_PEND kept under
DEBUG_HALT; nothing else changes. -/
def Obligations.FaultStepFollowsThePolicy : Prop :=
  ∀ (s : State) (rest : List Event), s.agenda = .sequencer :: rest →
    s.armed = true → s.halted = false → s.faultPend = true →
    ∃ t, step s = .next t ∧ t.faultCount.toNat = (s.faultCount.toNat + 1) % 2 ^ 32 ∧
      (s.cfg.faultPolicy = .production →
        t = { s with agenda := rest, faultCount := t.faultCount, faultPend := false }) ∧
      (s.cfg.faultPolicy = .debugHalt →
        t = { s with agenda := rest, faultCount := t.faultCount, halted := true })

/-- R185: under PRODUCTION, a faulting beat and then the fault step leave what the beat alone would have left, but for
the byte on the wire and the count (and the draw taken). -/
def Obligations.FaultsDoNotDisturbThePhases : Prop :=
  ∀ (s : State) (rest : List Event), s.agenda = .faultBeat :: .sequencer :: rest → s.cfg.faultPolicy = .production →
    s.armed = true → s.halted = false → s.xcPend = false → s.faultPend = false →
    s.desc.pos.toNat < s.desc.dlen.toNat →
    ∃ t u, Host.Core.run Sys2Proof.core 2 s = .next t ∧ step { s with agenda := .beat :: rest } = .next u ∧
      t = { u with
        wire := s.wire ++ [Config.wireDraw s.draws], faultCount := s.faultCount + 1, draws := s.draws + 1 }

/-- R186, R173: from the first beat of a FRAME transfer, with no host write and no faulting beat in between, LEN_REG
beats emit FB[0], FB[1], …, FB[LEN_REG-1] and set XC_PEND; nothing else changes. -/
def Obligations.FramePhaseEmitsTheFrame : Prop :=
  ∀ (s : State) (n : BitVec 16) (rest : List Event), s.agenda = List.replicate n.toNat .beat ++ rest →
    s.armed = true → s.halted = false → s.xcPend = false → s.desc = ⟨.fb, n, 0⟩ → 1 ≤ n.toNat →
    Host.Core.run Sys2Proof.core n.toNat s = .next { s with
      agenda := rest
      wire := s.wire ++ (List.range n.toNat).map s.fbByte
      desc := ⟨.fb, n, n⟩
      xcPend := true }

/-- R187, R171, R176, R178, R180, R181: k whole cycles from the start of a FRAME phase, with no host step and no fault,
put F Z F Z … on the wire (F the frame, Z P_RESET_LEN bytes of 0x00), append GAP, FRAME to the trace and one set of DONE
each time, and lead back to the start of a FRAME phase; nothing else changes. -/
def Obligations.CyclesPutFramesAndGapsOnTheWire : Prop :=
  ∀ (s : State) (k : Nat) (rest : List Event), s.Inv →
    s.armed = true → s.halted = false → s.faultPend = false → s.phase = .frame → s.desc.pos = 0 →
    s.agenda = (List.replicate k (List.replicate s.lenReg.toNat Event.beat ++ [Event.sequencer] ++
      List.replicate s.cfg.resetLen Event.beat ++ [Event.sequencer])).flatten ++ rest →
    Host.Core.run Sys2Proof.core (k * (s.lenReg.toNat + s.cfg.resetLen + 2)) s = .next { s with
      agenda := rest
      done := s.done || decide (0 < k)
      wire := s.wire ++ (List.replicate k ((List.range s.lenReg.toNat).map s.fbByte ++
        List.replicate s.cfg.resetLen 0x00#8)).flatten
      phaseTrace := s.phaseTrace ++ (List.replicate k [Phase.gap, Phase.frame]).flatten
      doneSets := s.doneSets + k }

/-! ### The whole machine -/

/-- R260, R33: reset leaves every field at its reset value, after `State.reset` and after a reset event in any state, and
every byte of FB at a draw of its own; the build stays (and with it RB, CONFIG and PATTERNS). The model's own fields go
on as log entry 17 says. -/
def Obligations.ResetLeavesTheResetValues : Prop :=
  ∀ (s : State) (rest : List Event), s.agenda = .reset :: rest →
    ∃ t, step s = .next t ∧
      (∀ i, t.fbByte i = Config.fbDraw (s.resets + 1) i) ∧ (∀ i, State.reset.fbByte i = Config.fbDraw 0 i) ∧
      t.cfg = s.cfg ∧
      (∀ u, u = t ∨ u = State.reset →
        u.armed = false ∧ u.phase = .frame ∧ u.done = false ∧ u.desc = ⟨.fb, 0, 0⟩ ∧ u.lenReg = 0 ∧
        u.xcPend = false ∧ u.faultPend = false ∧ u.halted = false ∧ u.faultCount = 0 ∧ u.err = ⟨.none, false, 0, 0⟩ ∧
        u.color = ⟨0, 0, 0⟩ ∧ u.wire = [] ∧ u.phaseTrace = [] ∧ u.doneSets = 0 ∧ u.race = false) ∧
      t.rdata = s.rdata ∧ t.agenda = rest ∧ t.freeEvents = s.freeEvents ∧ t.draws = s.draws ∧ t.resets = s.resets + 1

/-- R45 and what makes it inductive (R33, R39, R180, R181, R10): it holds at reset, whatever legal build came out. -/
def Obligations.ResetMeetsTheInvariant : Prop :=
  State.reset.Inv

/-- R45, R180, R181, R33, R39: every step of every agent, and a reset, keep the invariant, from every state that meets
it. -/
def Obligations.EveryStepKeepsTheInvariant : Prop :=
  ∀ s t : State, s.Inv → step s = .next t → t.Inv

/-- R37, R181, S4: DONE goes from 0 to 1 only on a FRAME -> GAP step: the sequencer's, with a transfer complete and no
fault pending. -/
def Obligations.DoneIsSetOnlyByAFrameCompleting : Prop :=
  ∀ s t : State, step s = .next t → s.done = false → t.done = true →
    s.nextEvent = .sequencer ∧ s.armed = true ∧ s.halted = false ∧ s.phase = .frame ∧ s.xcPend = true ∧
      s.faultPend = false ∧ t.phase = .gap

/-- R37: DONE goes from 1 to 0 only by a host write of 1 to STATUS bit 0, by a START while disarmed, or by a reset. -/
def Obligations.DoneIsClearedOnlyByTheHost : Prop :=
  ∀ s t : State, step s = .next t → s.done = true → t.done = false →
    (∃ v : Word, s.nextEvent = .host (.write 0x0004 .word v) ∧ v.getLsbD 0 = true) ∨
    (∃ len : BitVec 16, s.nextEvent = .host (.write 0x0000 .word (0x1000#16 ++ len)) ∧ s.armed = false) ∨
    s.nextEvent = .reset

/-- R47, R243: no host access but a write of CMD changes what the engine owns: PHASE, DESC, LEN_REG, ARMED, the pending
bits, HALTED; and no host access at all changes FAULT_COUNT, WIRE or the build. -/
def Obligations.HostCannotTouchTheEngine : Prop :=
  ∀ (s t : State) (a : Access), exec (decodeAccess s.cfg.fbLen a) s = .next t →
    t.faultCount = s.faultCount ∧ t.wire = s.wire ∧ t.cfg = s.cfg ∧
    ((∀ v, a ≠ .write 0x0000 .word v) →
      t.phase = s.phase ∧ t.desc = s.desc ∧ t.lenReg = s.lenReg ∧ t.armed = s.armed ∧ t.xcPend = s.xcPend ∧
      t.faultPend = s.faultPend ∧ t.halted = s.halted ∧ t.phaseTrace = s.phaseTrace ∧ t.doneSets = s.doneSets)

/-- R182, R47: a step of the sequencer or of the transfer engine leaves FB, COLOR, ERR and LEN_REG as they are, and RACE
and the value last read. -/
def Obligations.EngineStepsLeaveTheHostsState : Prop :=
  ∀ s t : State, step s = .next t → (s.nextEvent = .beat ∨ s.nextEvent = .faultBeat ∨ s.nextEvent = .sequencer) →
    (∀ i, t.fbByte i = s.fbByte i) ∧ t.color = s.color ∧ t.err = s.err ∧ t.lenReg = s.lenReg ∧ t.race = s.race ∧
      t.rdata = s.rdata

/-- R42, R184: in a state that meets the invariant, HALTED ends only by a STOP written to CMD or by a reset. -/
def Obligations.HaltEndsOnlyByStopOrReset : Prop :=
  ∀ s t : State, s.Inv → step s = .next t → s.halted = true → t.halted = false →
    s.nextEvent = .host (.write 0x0000 .word 0x20000000#32) ∨ s.nextEvent = .reset

/-- R43, R177: without a reset, FAULT_COUNT changes only by a fault step, and then by one, mod 2^32. -/
def Obligations.FaultCountChangesOnlyByFaultSteps : Prop :=
  ∀ s t : State, step s = .next t → s.nextEvent ≠ .reset → t.faultCount ≠ s.faultCount →
    s.nextEvent = .sequencer ∧ s.faultPend = true ∧ t.faultCount.toNat = (s.faultCount.toNat + 1) % 2 ^ 32

/-- R175, R36, R184: without a reset, WIRE only grows, by one byte, and only on a beat or a faulting beat of an engine
that is armed and not halted. -/
def Obligations.WireGrowsOnlyByBeats : Prop :=
  ∀ s t : State, step s = .next t → s.nextEvent ≠ .reset → t.wire ≠ s.wire →
    (∃ b, t.wire = s.wire ++ [b]) ∧ (s.nextEvent = .beat ∨ s.nextEvent = .faultBeat) ∧
      s.armed = true ∧ s.halted = false ∧ s.xcPend = false

/-- R260, R215, R217, R46: no step changes the build, and without a reset no step clears RACE. -/
def Obligations.BuildIsConstantAndRaceIsSticky : Prop :=
  ∀ s t : State, step s = .next t →
    t.cfg = s.cfg ∧ (s.nextEvent ≠ .reset → s.race = true → t.race = true)

/-- R15, R175, R10: everything emitted goes out as 8 levels a byte, oldest byte first; level k of a byte is its bit 7 - k or
its bit k, as P_WIRE_ORDER says, and popcount of them are high (that a 1 bit is high is PRESUMED, log entry 19). -/
def Obligations.SymbolsGoOutBitByBit : Prop :=
  ∀ s : State, s.lineLevels.length = 8 * s.wire.length ∧ s.lineLevels.countP id = (s.wire.map popcount).sum ∧
    ∀ i b, s.wire[i]? = some b → ∀ k, k < 8 →
      s.lineLevels[8 * i + k]? =
        some (b.getLsbD (match s.cfg.wireOrder with | .msbFirst => 7 - k | .lsbFirst => k))

/-- R110, R111: an operand of START, ENC_LED, ENC_STRIP or ENC_CH that fits its field is assembled into the word R110
gives, one that does not is refused; and `encstrip` expands to its write of COLOR and its command. -/
def Obligations.AssemblerGivesTheWords : Prop :=
  (∀ n, n ≤ 0xFFFF →
    assemble (.start n) = some [.write 0x0000 .word (BitVec.ofNat 32 (0x10000000 + n))] ∧
    assemble (.encLed n) = some [.write 0x0000 .word (BitVec.ofNat 32 (0x40000000 + n))] ∧
    assemble (.encStrip n) = some [.write 0x0000 .word (BitVec.ofNat 32 (0x50000000 + n))]) ∧
  (∀ o v, o ≤ 0xFFFF → v ≤ 0xFF →
    assemble (.encCh o v) = some [.write 0x0000 .word (BitVec.ofNat 32 (0x30000000 + o * 2 ^ 8 + v))]) ∧
  (∀ n, 0xFFFF < n → assemble (.start n) = none ∧ assemble (.encLed n) = none ∧ assemble (.encStrip n) = none) ∧
  (∀ o v, 0xFFFF < o ∨ 0xFF < v → assemble (.encCh o v) = none) ∧
  (∀ k g r b, k ≤ 0xFFFF → g ≤ 0xFF → r ≤ 0xFF → b ≤ 0xFF →
    assemble (.encstrip k g r b) =
      some [.write 0x0008 .word (BitVec.ofNat 32 (g * 2 ^ 16 + r * 2 ^ 8 + b)),
        .write 0x0000 .word (BitVec.ofNat 32 (0x50000000 + k))])
end

