-- ==== Sys2Proof/Laws/Decode.lean ====
section
/-! SUPPORT. Sys2Proof/Laws/Decode.lean: where R200's dispatch sends an access. -/

namespace Sys2Proof

theorem inFbWindow_iff (L : Nat) (o : Offset) (n : Width) :
    inFbWindow L o n = true ↔ 0x1000 ≤ o.toNat ∧ o.toNat + n.bytes ≤ 0x1000 + L := by
  unfold inFbWindow
  rw [Bool.and_eq_true, decide_eq_true_eq, decide_eq_true_eq]

theorem isAligned_iff (o : Offset) (n : Width) : isAligned o n = true ↔ o.toNat % n.bytes = 0 := by
  unfold isAligned
  rw [decide_eq_true_eq]

theorem decodeAccess_of_toRegister (L : Nat) (a : Access) (h : a.ToRegister) : decodeAccess L a = decodeRegister a := by
  unfold decodeAccess
  rw [if_pos (by omega), if_pos ⟨h.1, h.2.2⟩]

theorem decodeAccess_of_inFbWindow (L : Nat) (a : Access) (h : InFbWindow L a.off a.width.bytes) :
    decodeAccess L a = decodeFb a := by
  have far : ¬ a.off.toNat ≤ 0x1C := fun hle => absurd (Nat.le_trans h.1 hle) (by decide)
  unfold decodeAccess
  rw [if_neg far, if_pos ((inFbWindow_iff ..).2 ⟨h.1, h.2.1⟩), if_pos ((isAligned_iff ..).2 h.2.2)]

/-- The offset of a register access is one of the eight of R71. -/
theorem register_offset_cases (o : Offset) (h : o.toNat < 0x20) (h4 : o.toNat % 4 = 0) :
    o = 0x00#16 ∨ o = 0x04#16 ∨ o = 0x08#16 ∨ o = 0x0C#16 ∨ o = 0x10#16 ∨ o = 0x14#16 ∨ o = 0x18#16 ∨ o = 0x1C#16 := by
  simp only [BitVec.toNat_eq, BitVec.toNat_ofNat]
  omega

end Sys2Proof
end

