-- ==== Sys2Proof/Laws/Memory.lean ====
section
/-! SUPPORT. Sys2Proof/Laws/Memory.lean: what the memory operations do, byte by byte, and that they keep the canonical
form, under which equal memories are equal data. -/

namespace Sys2Proof.Machine

theorem Memory.wf_iff (m : Memory) : Memory.wf m = true ↔ m.Pairwise fun c d => c.1 < d.1 := by
  simp [Memory.wf]

/-- A read after a write: the byte written at the index written, what was there before at any other. -/
theorem Memory.lookup_store (m : Memory) (i j : Nat) (v : Byte) :
    Memory.lookup (Memory.store m i v) j = if j = i then some v else Memory.lookup m j := by
  induction m with
  | nil => simp only [Memory.store, Memory.lookup, eq_comm]
  | cons c m ih =>
    simp only [Memory.store]
    split
    · simp only [Memory.lookup, eq_comm]
    · split
      · subst i; simp only [Memory.lookup]; split <;> simp_all [eq_comm]
      · simp only [Memory.lookup, ih]; split <;> split <;> simp_all

/-- Where a block write puts which byte, and that it leaves every other index alone. -/
theorem Memory.lookup_storeList (m : Memory) (i j : Nat) (bs : List Byte) :
    Memory.lookup (Memory.storeList m i bs) j =
      if i ≤ j ∧ j < i + bs.length then bs[j - i]? else Memory.lookup m j := by
  induction bs generalizing m i with
  | nil => simp [Memory.storeList]
  | cons b bs ih =>
    simp only [Memory.storeList, ih, Memory.lookup_store, List.length_cons]
    rcases Nat.lt_trichotomy j i with h | h | h
    · rw [if_neg (by omega), if_neg (by omega), if_neg (by omega)]
    · subst h; simp
    · by_cases h' : j < i + (bs.length + 1)
      · rw [if_pos (by omega), if_pos (by omega), show j - i = (j - (i + 1)) + 1 by omega, List.getElem?_cons_succ]
      · rw [if_neg (by omega), if_neg (by omega), if_neg (by omega)]

theorem Memory.mem_store {m : Memory} {i : Nat} {v : Byte} {c : Host.Cell} (h : c ∈ Memory.store m i v) :
    c = (i, v) ∨ c ∈ m := by
  induction m with
  | nil => simpa [Memory.store] using h
  | cons d m ih =>
    simp only [Memory.store] at h
    split at h
    · simpa using h
    · split at h
      · simp only [List.mem_cons] at h ⊢; tauto
      · simp only [List.mem_cons] at h ⊢; rcases h with h | h
        · exact .inr (.inl h)
        · rcases ih h with h | h <;> simp [h]

theorem Memory.wf_store {m : Memory} (h : Memory.wf m = true) (i : Nat) (v : Byte) :
    Memory.wf (Memory.store m i v) = true := by
  rw [Memory.wf_iff] at h ⊢
  induction m with
  | nil => simp [Memory.store]
  | cons c m ih =>
    rw [List.pairwise_cons] at h
    simp only [Memory.store]
    split
    next hi =>
      refine List.pairwise_cons.2 ⟨fun d hd => ?_, List.pairwise_cons.2 h⟩
      rcases List.mem_cons.1 hd with rfl | hd
      · exact hi
      · exact hi.trans (h.1 d hd)
    next hi =>
      split
      next he => subst he; exact List.pairwise_cons.2 h
      next hne =>
        refine List.pairwise_cons.2 ⟨fun d hd => ?_, ih h.2⟩
        rcases Memory.mem_store hd with rfl | hd
        · simp only; omega
        · exact h.1 d hd

/-- Every memory operation keeps the canonical form. -/
theorem Memory.wf_storeList {m : Memory} (h : Memory.wf m = true) (i : Nat) (bs : List Byte) :
    Memory.wf (Memory.storeList m i bs) = true := by
  induction bs generalizing m i with
  | nil => exact h
  | cons b bs ih => exact ih (Memory.wf_store h i b) (i + 1)

theorem Memory.mem_storeList {m : Memory} {i : Nat} {bs : List Byte} {c : Host.Cell}
    (h : c ∈ Memory.storeList m i bs) : c ∈ m ∨ (i ≤ c.1 ∧ c.1 < i + bs.length) := by
  induction bs generalizing m i with
  | nil => exact .inl h
  | cons b bs ih =>
    rcases ih h with h | h
    · rcases Memory.mem_store h with rfl | h
      · exact .inr ⟨Nat.le_refl _, by simp⟩
      · exact .inl h
    · exact .inr ⟨by omega, by simp only [List.length_cons]; omega⟩

theorem Memory.lookup_below {m : Memory} {i : Nat} (h : ∀ c ∈ m, i < c.1) : Memory.lookup m i = none := by
  induction m with
  | nil => rfl
  | cons c m ih =>
    have hc := h c (by simp)
    simp only [Memory.lookup]
    rw [if_neg (by omega), ih fun d hd => h d (by simp [hd])]

/-- Two canonical memories that hold the same bytes are the same data. -/
theorem Memory.ext_of_wf {m n : Memory} (hm : Memory.wf m = true) (hn : Memory.wf n = true)
    (h : ∀ i, Memory.lookup m i = Memory.lookup n i) : m = n := by
  rw [Memory.wf_iff] at hm hn
  induction m generalizing n with
  | nil =>
    cases n with
    | nil => rfl
    | cons d n => simpa [Memory.lookup] using h d.1
  | cons c m ih =>
    cases n with
    | nil => simpa [Memory.lookup] using h c.1
    | cons d n =>
      rw [List.pairwise_cons] at hm hn
      have hcd : c.1 = d.1 := by
        rcases Nat.lt_trichotomy c.1 d.1 with hlt | he | hlt
        · have := h c.1
          rw [Memory.lookup_below (m := d :: n)] at this
          · simp [Memory.lookup] at this
          · intro e he; rcases List.mem_cons.1 he with rfl | he
            · exact hlt
            · exact hlt.trans (hn.1 e he)
        · exact he
        · have := h d.1
          rw [Memory.lookup_below (m := c :: m)] at this
          · simp [Memory.lookup] at this
          · intro e he; rcases List.mem_cons.1 he with rfl | he
            · exact hlt
            · exact hlt.trans (hm.1 e he)
      have hv : c.2 = d.2 := by simpa [Memory.lookup, hcd] using h c.1
      rw [show c = d from Prod.ext hcd hv]
      congr 1
      refine ih hm.2 hn.2 fun i => ?_
      by_cases hi : i = c.1
      · rw [Memory.lookup_below (by intro e he; exact hi ▸ hm.1 e he),
          Memory.lookup_below (by intro e he; rw [hi, hcd]; exact hn.1 e he)]
      · have := h i
        simp only [Memory.lookup] at this
        rwa [if_neg (Ne.symm hi), if_neg (by rw [← hcd]; exact Ne.symm hi)] at this

/-- FB after a block write, byte by byte. -/
theorem State.fbByte_writeFb (s : State) (i j : Nat) (bs : List Byte) :
    (s.writeFb i bs).fbByte j = if i ≤ j ∧ j < i + bs.length then bs.getD (j - i) 0 else s.fbByte j := by
  simp only [State.fbByte, State.writeFb, Memory.lookup_storeList]
  split
  next h => rw [List.getElem?_eq_getElem (by omega), List.getD_eq_getElem _ _ (by omega)]; rfl
  next => rfl

/-- The same with the race mark, which touches no byte. -/
theorem State.fbByte_hostWriteFb (s : State) (i j : Nat) (bs : List Byte) :
    (s.hostWriteFb i bs).fbByte j = if i ≤ j ∧ j < i + bs.length then bs.getD (j - i) 0 else s.fbByte j :=
  s.fbByte_writeFb i j bs

end Sys2Proof.Machine
end

