-- ==== Sys2Proof/Laws/State.lean ====
section
/-! SUPPORT. Sys2Proof/Laws/State.lean: each field after each named update, so that no proof unfolds a record update. -/

namespace Sys2Proof.Machine

@[simp] theorem State.writeFb_fb (s : State) (i : Nat) (bytes : List Byte) : (s.writeFb i bytes).fb = Memory.storeList s.fb i bytes := rfl
@[simp] theorem State.writeFb_phase (s : State) (i : Nat) (bytes : List Byte) : (s.writeFb i bytes).phase = s.phase := rfl
@[simp] theorem State.writeFb_armed (s : State) (i : Nat) (bytes : List Byte) : (s.writeFb i bytes).armed = s.armed := rfl
@[simp] theorem State.writeFb_done (s : State) (i : Nat) (bytes : List Byte) : (s.writeFb i bytes).done = s.done := rfl
@[simp] theorem State.writeFb_desc (s : State) (i : Nat) (bytes : List Byte) : (s.writeFb i bytes).desc = s.desc := rfl
@[simp] theorem State.writeFb_lenReg (s : State) (i : Nat) (bytes : List Byte) : (s.writeFb i bytes).lenReg = s.lenReg := rfl
@[simp] theorem State.writeFb_xcPend (s : State) (i : Nat) (bytes : List Byte) : (s.writeFb i bytes).xcPend = s.xcPend := rfl
@[simp] theorem State.writeFb_faultPend (s : State) (i : Nat) (bytes : List Byte) : (s.writeFb i bytes).faultPend = s.faultPend := rfl
@[simp] theorem State.writeFb_halted (s : State) (i : Nat) (bytes : List Byte) : (s.writeFb i bytes).halted = s.halted := rfl
@[simp] theorem State.writeFb_faultCount (s : State) (i : Nat) (bytes : List Byte) : (s.writeFb i bytes).faultCount = s.faultCount := rfl
@[simp] theorem State.writeFb_err (s : State) (i : Nat) (bytes : List Byte) : (s.writeFb i bytes).err = s.err := rfl
@[simp] theorem State.writeFb_color (s : State) (i : Nat) (bytes : List Byte) : (s.writeFb i bytes).color = s.color := rfl
@[simp] theorem State.writeFb_wire (s : State) (i : Nat) (bytes : List Byte) : (s.writeFb i bytes).wire = s.wire := rfl
@[simp] theorem State.writeFb_phaseTrace (s : State) (i : Nat) (bytes : List Byte) : (s.writeFb i bytes).phaseTrace = s.phaseTrace := rfl
@[simp] theorem State.writeFb_doneSets (s : State) (i : Nat) (bytes : List Byte) : (s.writeFb i bytes).doneSets = s.doneSets := rfl
@[simp] theorem State.writeFb_race (s : State) (i : Nat) (bytes : List Byte) : (s.writeFb i bytes).race = s.race := rfl
@[simp] theorem State.writeFb_cfg (s : State) (i : Nat) (bytes : List Byte) : (s.writeFb i bytes).cfg = s.cfg := rfl
@[simp] theorem State.writeFb_rdata (s : State) (i : Nat) (bytes : List Byte) : (s.writeFb i bytes).rdata = s.rdata := rfl
@[simp] theorem State.writeFb_agenda (s : State) (i : Nat) (bytes : List Byte) : (s.writeFb i bytes).agenda = s.agenda := rfl
@[simp] theorem State.writeFb_freeEvents (s : State) (i : Nat) (bytes : List Byte) : (s.writeFb i bytes).freeEvents = s.freeEvents := rfl
@[simp] theorem State.writeFb_draws (s : State) (i : Nat) (bytes : List Byte) : (s.writeFb i bytes).draws = s.draws := rfl
@[simp] theorem State.writeFb_resets (s : State) (i : Nat) (bytes : List Byte) : (s.writeFb i bytes).resets = s.resets := rfl

@[simp] theorem State.setRdata_fb (s : State) (v : Word) : (s.setRdata v).fb = s.fb := rfl
@[simp] theorem State.setRdata_phase (s : State) (v : Word) : (s.setRdata v).phase = s.phase := rfl
@[simp] theorem State.setRdata_armed (s : State) (v : Word) : (s.setRdata v).armed = s.armed := rfl
@[simp] theorem State.setRdata_done (s : State) (v : Word) : (s.setRdata v).done = s.done := rfl
@[simp] theorem State.setRdata_desc (s : State) (v : Word) : (s.setRdata v).desc = s.desc := rfl
@[simp] theorem State.setRdata_lenReg (s : State) (v : Word) : (s.setRdata v).lenReg = s.lenReg := rfl
@[simp] theorem State.setRdata_xcPend (s : State) (v : Word) : (s.setRdata v).xcPend = s.xcPend := rfl
@[simp] theorem State.setRdata_faultPend (s : State) (v : Word) : (s.setRdata v).faultPend = s.faultPend := rfl
@[simp] theorem State.setRdata_halted (s : State) (v : Word) : (s.setRdata v).halted = s.halted := rfl
@[simp] theorem State.setRdata_faultCount (s : State) (v : Word) : (s.setRdata v).faultCount = s.faultCount := rfl
@[simp] theorem State.setRdata_err (s : State) (v : Word) : (s.setRdata v).err = s.err := rfl
@[simp] theorem State.setRdata_color (s : State) (v : Word) : (s.setRdata v).color = s.color := rfl
@[simp] theorem State.setRdata_wire (s : State) (v : Word) : (s.setRdata v).wire = s.wire := rfl
@[simp] theorem State.setRdata_phaseTrace (s : State) (v : Word) : (s.setRdata v).phaseTrace = s.phaseTrace := rfl
@[simp] theorem State.setRdata_doneSets (s : State) (v : Word) : (s.setRdata v).doneSets = s.doneSets := rfl
@[simp] theorem State.setRdata_race (s : State) (v : Word) : (s.setRdata v).race = s.race := rfl
@[simp] theorem State.setRdata_cfg (s : State) (v : Word) : (s.setRdata v).cfg = s.cfg := rfl
@[simp] theorem State.setRdata_rdata (s : State) (v : Word) : (s.setRdata v).rdata = v := rfl
@[simp] theorem State.setRdata_agenda (s : State) (v : Word) : (s.setRdata v).agenda = s.agenda := rfl
@[simp] theorem State.setRdata_freeEvents (s : State) (v : Word) : (s.setRdata v).freeEvents = s.freeEvents := rfl
@[simp] theorem State.setRdata_draws (s : State) (v : Word) : (s.setRdata v).draws = s.draws := rfl
@[simp] theorem State.setRdata_resets (s : State) (v : Word) : (s.setRdata v).resets = s.resets := rfl

@[simp] theorem State.raise_fb (s : State) (c : ErrCode) (o : BitVec 4) (i : BitVec 16) : (s.raise c o i).fb = s.fb := rfl
@[simp] theorem State.raise_phase (s : State) (c : ErrCode) (o : BitVec 4) (i : BitVec 16) : (s.raise c o i).phase = s.phase := rfl
@[simp] theorem State.raise_armed (s : State) (c : ErrCode) (o : BitVec 4) (i : BitVec 16) : (s.raise c o i).armed = s.armed := rfl
@[simp] theorem State.raise_done (s : State) (c : ErrCode) (o : BitVec 4) (i : BitVec 16) : (s.raise c o i).done = s.done := rfl
@[simp] theorem State.raise_desc (s : State) (c : ErrCode) (o : BitVec 4) (i : BitVec 16) : (s.raise c o i).desc = s.desc := rfl
@[simp] theorem State.raise_lenReg (s : State) (c : ErrCode) (o : BitVec 4) (i : BitVec 16) : (s.raise c o i).lenReg = s.lenReg := rfl
@[simp] theorem State.raise_xcPend (s : State) (c : ErrCode) (o : BitVec 4) (i : BitVec 16) : (s.raise c o i).xcPend = s.xcPend := rfl
@[simp] theorem State.raise_faultPend (s : State) (c : ErrCode) (o : BitVec 4) (i : BitVec 16) : (s.raise c o i).faultPend = s.faultPend := rfl
@[simp] theorem State.raise_halted (s : State) (c : ErrCode) (o : BitVec 4) (i : BitVec 16) : (s.raise c o i).halted = s.halted := rfl
@[simp] theorem State.raise_faultCount (s : State) (c : ErrCode) (o : BitVec 4) (i : BitVec 16) : (s.raise c o i).faultCount = s.faultCount := rfl
@[simp] theorem State.raise_err (s : State) (c : ErrCode) (o : BitVec 4) (i : BitVec 16) : (s.raise c o i).err = s.err.record c o i := rfl
@[simp] theorem State.raise_color (s : State) (c : ErrCode) (o : BitVec 4) (i : BitVec 16) : (s.raise c o i).color = s.color := rfl
@[simp] theorem State.raise_wire (s : State) (c : ErrCode) (o : BitVec 4) (i : BitVec 16) : (s.raise c o i).wire = s.wire := rfl
@[simp] theorem State.raise_phaseTrace (s : State) (c : ErrCode) (o : BitVec 4) (i : BitVec 16) : (s.raise c o i).phaseTrace = s.phaseTrace := rfl
@[simp] theorem State.raise_doneSets (s : State) (c : ErrCode) (o : BitVec 4) (i : BitVec 16) : (s.raise c o i).doneSets = s.doneSets := rfl
@[simp] theorem State.raise_race (s : State) (c : ErrCode) (o : BitVec 4) (i : BitVec 16) : (s.raise c o i).race = s.race := rfl
@[simp] theorem State.raise_cfg (s : State) (c : ErrCode) (o : BitVec 4) (i : BitVec 16) : (s.raise c o i).cfg = s.cfg := rfl
@[simp] theorem State.raise_rdata (s : State) (c : ErrCode) (o : BitVec 4) (i : BitVec 16) : (s.raise c o i).rdata = s.rdata := rfl
@[simp] theorem State.raise_agenda (s : State) (c : ErrCode) (o : BitVec 4) (i : BitVec 16) : (s.raise c o i).agenda = s.agenda := rfl
@[simp] theorem State.raise_freeEvents (s : State) (c : ErrCode) (o : BitVec 4) (i : BitVec 16) : (s.raise c o i).freeEvents = s.freeEvents := rfl
@[simp] theorem State.raise_draws (s : State) (c : ErrCode) (o : BitVec 4) (i : BitVec 16) : (s.raise c o i).draws = s.draws := rfl
@[simp] theorem State.raise_resets (s : State) (c : ErrCode) (o : BitVec 4) (i : BitVec 16) : (s.raise c o i).resets = s.resets := rfl

@[simp] theorem State.raiseIllegal_fb (s : State) (w : Word) : (s.raiseIllegal w).fb = s.fb := rfl
@[simp] theorem State.raiseIllegal_phase (s : State) (w : Word) : (s.raiseIllegal w).phase = s.phase := rfl
@[simp] theorem State.raiseIllegal_armed (s : State) (w : Word) : (s.raiseIllegal w).armed = s.armed := rfl
@[simp] theorem State.raiseIllegal_done (s : State) (w : Word) : (s.raiseIllegal w).done = s.done := rfl
@[simp] theorem State.raiseIllegal_desc (s : State) (w : Word) : (s.raiseIllegal w).desc = s.desc := rfl
@[simp] theorem State.raiseIllegal_lenReg (s : State) (w : Word) : (s.raiseIllegal w).lenReg = s.lenReg := rfl
@[simp] theorem State.raiseIllegal_xcPend (s : State) (w : Word) : (s.raiseIllegal w).xcPend = s.xcPend := rfl
@[simp] theorem State.raiseIllegal_faultPend (s : State) (w : Word) : (s.raiseIllegal w).faultPend = s.faultPend := rfl
@[simp] theorem State.raiseIllegal_halted (s : State) (w : Word) : (s.raiseIllegal w).halted = s.halted := rfl
@[simp] theorem State.raiseIllegal_faultCount (s : State) (w : Word) : (s.raiseIllegal w).faultCount = s.faultCount := rfl
@[simp] theorem State.raiseIllegal_err (s : State) (w : Word) : (s.raiseIllegal w).err = s.err.record .illegal (w.extractLsb' 28 4) (w.extractLsb' 0 16) := rfl
@[simp] theorem State.raiseIllegal_color (s : State) (w : Word) : (s.raiseIllegal w).color = s.color := rfl
@[simp] theorem State.raiseIllegal_wire (s : State) (w : Word) : (s.raiseIllegal w).wire = s.wire := rfl
@[simp] theorem State.raiseIllegal_phaseTrace (s : State) (w : Word) : (s.raiseIllegal w).phaseTrace = s.phaseTrace := rfl
@[simp] theorem State.raiseIllegal_doneSets (s : State) (w : Word) : (s.raiseIllegal w).doneSets = s.doneSets := rfl
@[simp] theorem State.raiseIllegal_race (s : State) (w : Word) : (s.raiseIllegal w).race = s.race := rfl
@[simp] theorem State.raiseIllegal_cfg (s : State) (w : Word) : (s.raiseIllegal w).cfg = s.cfg := rfl
@[simp] theorem State.raiseIllegal_rdata (s : State) (w : Word) : (s.raiseIllegal w).rdata = s.rdata := rfl
@[simp] theorem State.raiseIllegal_agenda (s : State) (w : Word) : (s.raiseIllegal w).agenda = s.agenda := rfl
@[simp] theorem State.raiseIllegal_freeEvents (s : State) (w : Word) : (s.raiseIllegal w).freeEvents = s.freeEvents := rfl
@[simp] theorem State.raiseIllegal_draws (s : State) (w : Word) : (s.raiseIllegal w).draws = s.draws := rfl
@[simp] theorem State.raiseIllegal_resets (s : State) (w : Word) : (s.raiseIllegal w).resets = s.resets := rfl

@[simp] theorem State.markRace_fb (s : State) : s.markRace.fb = s.fb := rfl
@[simp] theorem State.markRace_phase (s : State) : s.markRace.phase = s.phase := rfl
@[simp] theorem State.markRace_armed (s : State) : s.markRace.armed = s.armed := rfl
@[simp] theorem State.markRace_done (s : State) : s.markRace.done = s.done := rfl
@[simp] theorem State.markRace_desc (s : State) : s.markRace.desc = s.desc := rfl
@[simp] theorem State.markRace_lenReg (s : State) : s.markRace.lenReg = s.lenReg := rfl
@[simp] theorem State.markRace_xcPend (s : State) : s.markRace.xcPend = s.xcPend := rfl
@[simp] theorem State.markRace_faultPend (s : State) : s.markRace.faultPend = s.faultPend := rfl
@[simp] theorem State.markRace_halted (s : State) : s.markRace.halted = s.halted := rfl
@[simp] theorem State.markRace_faultCount (s : State) : s.markRace.faultCount = s.faultCount := rfl
@[simp] theorem State.markRace_err (s : State) : s.markRace.err = s.err := rfl
@[simp] theorem State.markRace_color (s : State) : s.markRace.color = s.color := rfl
@[simp] theorem State.markRace_wire (s : State) : s.markRace.wire = s.wire := rfl
@[simp] theorem State.markRace_phaseTrace (s : State) : s.markRace.phaseTrace = s.phaseTrace := rfl
@[simp] theorem State.markRace_doneSets (s : State) : s.markRace.doneSets = s.doneSets := rfl
@[simp] theorem State.markRace_race (s : State) : s.markRace.race = (s.race || s.racing) := rfl
@[simp] theorem State.markRace_cfg (s : State) : s.markRace.cfg = s.cfg := rfl
@[simp] theorem State.markRace_rdata (s : State) : s.markRace.rdata = s.rdata := rfl
@[simp] theorem State.markRace_agenda (s : State) : s.markRace.agenda = s.agenda := rfl
@[simp] theorem State.markRace_freeEvents (s : State) : s.markRace.freeEvents = s.freeEvents := rfl
@[simp] theorem State.markRace_draws (s : State) : s.markRace.draws = s.draws := rfl
@[simp] theorem State.markRace_resets (s : State) : s.markRace.resets = s.resets := rfl

@[simp] theorem State.hostWriteFb_fb (s : State) (i : Nat) (bytes : List Byte) : (s.hostWriteFb i bytes).fb = Memory.storeList s.fb i bytes := rfl
@[simp] theorem State.hostWriteFb_phase (s : State) (i : Nat) (bytes : List Byte) : (s.hostWriteFb i bytes).phase = s.phase := rfl
@[simp] theorem State.hostWriteFb_armed (s : State) (i : Nat) (bytes : List Byte) : (s.hostWriteFb i bytes).armed = s.armed := rfl
@[simp] theorem State.hostWriteFb_done (s : State) (i : Nat) (bytes : List Byte) : (s.hostWriteFb i bytes).done = s.done := rfl
@[simp] theorem State.hostWriteFb_desc (s : State) (i : Nat) (bytes : List Byte) : (s.hostWriteFb i bytes).desc = s.desc := rfl
@[simp] theorem State.hostWriteFb_lenReg (s : State) (i : Nat) (bytes : List Byte) : (s.hostWriteFb i bytes).lenReg = s.lenReg := rfl
@[simp] theorem State.hostWriteFb_xcPend (s : State) (i : Nat) (bytes : List Byte) : (s.hostWriteFb i bytes).xcPend = s.xcPend := rfl
@[simp] theorem State.hostWriteFb_faultPend (s : State) (i : Nat) (bytes : List Byte) : (s.hostWriteFb i bytes).faultPend = s.faultPend := rfl
@[simp] theorem State.hostWriteFb_halted (s : State) (i : Nat) (bytes : List Byte) : (s.hostWriteFb i bytes).halted = s.halted := rfl
@[simp] theorem State.hostWriteFb_faultCount (s : State) (i : Nat) (bytes : List Byte) : (s.hostWriteFb i bytes).faultCount = s.faultCount := rfl
@[simp] theorem State.hostWriteFb_err (s : State) (i : Nat) (bytes : List Byte) : (s.hostWriteFb i bytes).err = s.err := rfl
@[simp] theorem State.hostWriteFb_color (s : State) (i : Nat) (bytes : List Byte) : (s.hostWriteFb i bytes).color = s.color := rfl
@[simp] theorem State.hostWriteFb_wire (s : State) (i : Nat) (bytes : List Byte) : (s.hostWriteFb i bytes).wire = s.wire := rfl
@[simp] theorem State.hostWriteFb_phaseTrace (s : State) (i : Nat) (bytes : List Byte) : (s.hostWriteFb i bytes).phaseTrace = s.phaseTrace := rfl
@[simp] theorem State.hostWriteFb_doneSets (s : State) (i : Nat) (bytes : List Byte) : (s.hostWriteFb i bytes).doneSets = s.doneSets := rfl
@[simp] theorem State.hostWriteFb_race (s : State) (i : Nat) (bytes : List Byte) : (s.hostWriteFb i bytes).race = (s.race || s.racing) := rfl
@[simp] theorem State.hostWriteFb_cfg (s : State) (i : Nat) (bytes : List Byte) : (s.hostWriteFb i bytes).cfg = s.cfg := rfl
@[simp] theorem State.hostWriteFb_rdata (s : State) (i : Nat) (bytes : List Byte) : (s.hostWriteFb i bytes).rdata = s.rdata := rfl
@[simp] theorem State.hostWriteFb_agenda (s : State) (i : Nat) (bytes : List Byte) : (s.hostWriteFb i bytes).agenda = s.agenda := rfl
@[simp] theorem State.hostWriteFb_freeEvents (s : State) (i : Nat) (bytes : List Byte) : (s.hostWriteFb i bytes).freeEvents = s.freeEvents := rfl
@[simp] theorem State.hostWriteFb_draws (s : State) (i : Nat) (bytes : List Byte) : (s.hostWriteFb i bytes).draws = s.draws := rfl
@[simp] theorem State.hostWriteFb_resets (s : State) (i : Nat) (bytes : List Byte) : (s.hostWriteFb i bytes).resets = s.resets := rfl

@[simp] theorem State.writeStatus_fb (s : State) (v : Word) : (s.writeStatus v).fb = s.fb := rfl
@[simp] theorem State.writeStatus_phase (s : State) (v : Word) : (s.writeStatus v).phase = s.phase := rfl
@[simp] theorem State.writeStatus_armed (s : State) (v : Word) : (s.writeStatus v).armed = s.armed := rfl
@[simp] theorem State.writeStatus_done (s : State) (v : Word) : (s.writeStatus v).done = (s.done && !v.getLsbD 0) := rfl
@[simp] theorem State.writeStatus_desc (s : State) (v : Word) : (s.writeStatus v).desc = s.desc := rfl
@[simp] theorem State.writeStatus_lenReg (s : State) (v : Word) : (s.writeStatus v).lenReg = s.lenReg := rfl
@[simp] theorem State.writeStatus_xcPend (s : State) (v : Word) : (s.writeStatus v).xcPend = s.xcPend := rfl
@[simp] theorem State.writeStatus_faultPend (s : State) (v : Word) : (s.writeStatus v).faultPend = s.faultPend := rfl
@[simp] theorem State.writeStatus_halted (s : State) (v : Word) : (s.writeStatus v).halted = s.halted := rfl
@[simp] theorem State.writeStatus_faultCount (s : State) (v : Word) : (s.writeStatus v).faultCount = s.faultCount := rfl
@[simp] theorem State.writeStatus_err (s : State) (v : Word) : (s.writeStatus v).err = s.err := rfl
@[simp] theorem State.writeStatus_color (s : State) (v : Word) : (s.writeStatus v).color = s.color := rfl
@[simp] theorem State.writeStatus_wire (s : State) (v : Word) : (s.writeStatus v).wire = s.wire := rfl
@[simp] theorem State.writeStatus_phaseTrace (s : State) (v : Word) : (s.writeStatus v).phaseTrace = s.phaseTrace := rfl
@[simp] theorem State.writeStatus_doneSets (s : State) (v : Word) : (s.writeStatus v).doneSets = s.doneSets := rfl
@[simp] theorem State.writeStatus_race (s : State) (v : Word) : (s.writeStatus v).race = s.race := rfl
@[simp] theorem State.writeStatus_cfg (s : State) (v : Word) : (s.writeStatus v).cfg = s.cfg := rfl
@[simp] theorem State.writeStatus_rdata (s : State) (v : Word) : (s.writeStatus v).rdata = s.rdata := rfl
@[simp] theorem State.writeStatus_agenda (s : State) (v : Word) : (s.writeStatus v).agenda = s.agenda := rfl
@[simp] theorem State.writeStatus_freeEvents (s : State) (v : Word) : (s.writeStatus v).freeEvents = s.freeEvents := rfl
@[simp] theorem State.writeStatus_draws (s : State) (v : Word) : (s.writeStatus v).draws = s.draws := rfl
@[simp] theorem State.writeStatus_resets (s : State) (v : Word) : (s.writeStatus v).resets = s.resets := rfl

@[simp] theorem State.arm_fb (s : State) (n : BitVec 16) : (s.arm n).fb = Memory.storeList s.fb 0 (List.replicate n.toNat (startByte s.cfg)) := rfl
@[simp] theorem State.arm_phase (s : State) (n : BitVec 16) : (s.arm n).phase = .frame := rfl
@[simp] theorem State.arm_armed (s : State) (n : BitVec 16) : (s.arm n).armed = true := rfl
@[simp] theorem State.arm_done (s : State) (n : BitVec 16) : (s.arm n).done = false := rfl
@[simp] theorem State.arm_desc (s : State) (n : BitVec 16) : (s.arm n).desc = ⟨.fb, n, 0⟩ := rfl
@[simp] theorem State.arm_lenReg (s : State) (n : BitVec 16) : (s.arm n).lenReg = n := rfl
@[simp] theorem State.arm_xcPend (s : State) (n : BitVec 16) : (s.arm n).xcPend = false := rfl
@[simp] theorem State.arm_faultPend (s : State) (n : BitVec 16) : (s.arm n).faultPend = false := rfl
@[simp] theorem State.arm_halted (s : State) (n : BitVec 16) : (s.arm n).halted = false := rfl
@[simp] theorem State.arm_faultCount (s : State) (n : BitVec 16) : (s.arm n).faultCount = s.faultCount := rfl
@[simp] theorem State.arm_err (s : State) (n : BitVec 16) : (s.arm n).err = s.err := rfl
@[simp] theorem State.arm_color (s : State) (n : BitVec 16) : (s.arm n).color = s.color := rfl
@[simp] theorem State.arm_wire (s : State) (n : BitVec 16) : (s.arm n).wire = s.wire := rfl
@[simp] theorem State.arm_phaseTrace (s : State) (n : BitVec 16) : (s.arm n).phaseTrace = [.frame] := rfl
@[simp] theorem State.arm_doneSets (s : State) (n : BitVec 16) : (s.arm n).doneSets = 0 := rfl
@[simp] theorem State.arm_race (s : State) (n : BitVec 16) : (s.arm n).race = s.race := rfl
@[simp] theorem State.arm_cfg (s : State) (n : BitVec 16) : (s.arm n).cfg = s.cfg := rfl
@[simp] theorem State.arm_rdata (s : State) (n : BitVec 16) : (s.arm n).rdata = s.rdata := rfl
@[simp] theorem State.arm_agenda (s : State) (n : BitVec 16) : (s.arm n).agenda = s.agenda := rfl
@[simp] theorem State.arm_freeEvents (s : State) (n : BitVec 16) : (s.arm n).freeEvents = s.freeEvents := rfl
@[simp] theorem State.arm_draws (s : State) (n : BitVec 16) : (s.arm n).draws = s.draws := rfl
@[simp] theorem State.arm_resets (s : State) (n : BitVec 16) : (s.arm n).resets = s.resets := rfl

@[simp] theorem State.disarm_fb (s : State) : s.disarm.fb = s.fb := rfl
@[simp] theorem State.disarm_phase (s : State) : s.disarm.phase = .frame := rfl
@[simp] theorem State.disarm_armed (s : State) : s.disarm.armed = false := rfl
@[simp] theorem State.disarm_done (s : State) : s.disarm.done = s.done := rfl
@[simp] theorem State.disarm_desc (s : State) : s.disarm.desc = ⟨.fb, 0, 0⟩ := rfl
@[simp] theorem State.disarm_lenReg (s : State) : s.disarm.lenReg = s.lenReg := rfl
@[simp] theorem State.disarm_xcPend (s : State) : s.disarm.xcPend = false := rfl
@[simp] theorem State.disarm_faultPend (s : State) : s.disarm.faultPend = false := rfl
@[simp] theorem State.disarm_halted (s : State) : s.disarm.halted = false := rfl
@[simp] theorem State.disarm_faultCount (s : State) : s.disarm.faultCount = s.faultCount := rfl
@[simp] theorem State.disarm_err (s : State) : s.disarm.err = s.err := rfl
@[simp] theorem State.disarm_color (s : State) : s.disarm.color = s.color := rfl
@[simp] theorem State.disarm_wire (s : State) : s.disarm.wire = s.wire := rfl
@[simp] theorem State.disarm_phaseTrace (s : State) : s.disarm.phaseTrace = s.phaseTrace := rfl
@[simp] theorem State.disarm_doneSets (s : State) : s.disarm.doneSets = s.doneSets := rfl
@[simp] theorem State.disarm_race (s : State) : s.disarm.race = s.race := rfl
@[simp] theorem State.disarm_cfg (s : State) : s.disarm.cfg = s.cfg := rfl
@[simp] theorem State.disarm_rdata (s : State) : s.disarm.rdata = s.rdata := rfl
@[simp] theorem State.disarm_agenda (s : State) : s.disarm.agenda = s.agenda := rfl
@[simp] theorem State.disarm_freeEvents (s : State) : s.disarm.freeEvents = s.freeEvents := rfl
@[simp] theorem State.disarm_draws (s : State) : s.disarm.draws = s.draws := rfl
@[simp] theorem State.disarm_resets (s : State) : s.disarm.resets = s.resets := rfl

@[simp] theorem State.moveByte_fb (s : State) (b : Byte) : (s.moveByte b).fb = s.fb := rfl
@[simp] theorem State.moveByte_phase (s : State) (b : Byte) : (s.moveByte b).phase = s.phase := rfl
@[simp] theorem State.moveByte_armed (s : State) (b : Byte) : (s.moveByte b).armed = s.armed := rfl
@[simp] theorem State.moveByte_done (s : State) (b : Byte) : (s.moveByte b).done = s.done := rfl
@[simp] theorem State.moveByte_desc (s : State) (b : Byte) : (s.moveByte b).desc = ⟨s.desc.src, s.desc.dlen, s.desc.pos + 1⟩ := rfl
@[simp] theorem State.moveByte_lenReg (s : State) (b : Byte) : (s.moveByte b).lenReg = s.lenReg := rfl
@[simp] theorem State.moveByte_xcPend (s : State) (b : Byte) : (s.moveByte b).xcPend = (s.xcPend || decide (s.desc.pos + 1 = s.desc.dlen)) := rfl
@[simp] theorem State.moveByte_faultPend (s : State) (b : Byte) : (s.moveByte b).faultPend = s.faultPend := rfl
@[simp] theorem State.moveByte_halted (s : State) (b : Byte) : (s.moveByte b).halted = s.halted := rfl
@[simp] theorem State.moveByte_faultCount (s : State) (b : Byte) : (s.moveByte b).faultCount = s.faultCount := rfl
@[simp] theorem State.moveByte_err (s : State) (b : Byte) : (s.moveByte b).err = s.err := rfl
@[simp] theorem State.moveByte_color (s : State) (b : Byte) : (s.moveByte b).color = s.color := rfl
@[simp] theorem State.moveByte_wire (s : State) (b : Byte) : (s.moveByte b).wire = s.wire ++ [b] := rfl
@[simp] theorem State.moveByte_phaseTrace (s : State) (b : Byte) : (s.moveByte b).phaseTrace = s.phaseTrace := rfl
@[simp] theorem State.moveByte_doneSets (s : State) (b : Byte) : (s.moveByte b).doneSets = s.doneSets := rfl
@[simp] theorem State.moveByte_race (s : State) (b : Byte) : (s.moveByte b).race = s.race := rfl
@[simp] theorem State.moveByte_cfg (s : State) (b : Byte) : (s.moveByte b).cfg = s.cfg := rfl
@[simp] theorem State.moveByte_rdata (s : State) (b : Byte) : (s.moveByte b).rdata = s.rdata := rfl
@[simp] theorem State.moveByte_agenda (s : State) (b : Byte) : (s.moveByte b).agenda = s.agenda := rfl
@[simp] theorem State.moveByte_freeEvents (s : State) (b : Byte) : (s.moveByte b).freeEvents = s.freeEvents := rfl
@[simp] theorem State.moveByte_draws (s : State) (b : Byte) : (s.moveByte b).draws = s.draws := rfl
@[simp] theorem State.moveByte_resets (s : State) (b : Byte) : (s.moveByte b).resets = s.resets := rfl

@[simp] theorem State.frameToGap_fb (s : State) : s.frameToGap.fb = s.fb := rfl
@[simp] theorem State.frameToGap_phase (s : State) : s.frameToGap.phase = .gap := rfl
@[simp] theorem State.frameToGap_armed (s : State) : s.frameToGap.armed = s.armed := rfl
@[simp] theorem State.frameToGap_done (s : State) : s.frameToGap.done = true := rfl
@[simp] theorem State.frameToGap_desc (s : State) : s.frameToGap.desc = ⟨.rb, BitVec.ofNat 16 s.cfg.resetLen, 0⟩ := rfl
@[simp] theorem State.frameToGap_lenReg (s : State) : s.frameToGap.lenReg = s.lenReg := rfl
@[simp] theorem State.frameToGap_xcPend (s : State) : s.frameToGap.xcPend = false := rfl
@[simp] theorem State.frameToGap_faultPend (s : State) : s.frameToGap.faultPend = s.faultPend := rfl
@[simp] theorem State.frameToGap_halted (s : State) : s.frameToGap.halted = s.halted := rfl
@[simp] theorem State.frameToGap_faultCount (s : State) : s.frameToGap.faultCount = s.faultCount := rfl
@[simp] theorem State.frameToGap_err (s : State) : s.frameToGap.err = s.err := rfl
@[simp] theorem State.frameToGap_color (s : State) : s.frameToGap.color = s.color := rfl
@[simp] theorem State.frameToGap_wire (s : State) : s.frameToGap.wire = s.wire := rfl
@[simp] theorem State.frameToGap_phaseTrace (s : State) : s.frameToGap.phaseTrace = s.phaseTrace ++ [.gap] := rfl
@[simp] theorem State.frameToGap_doneSets (s : State) : s.frameToGap.doneSets = s.doneSets + 1 := rfl
@[simp] theorem State.frameToGap_race (s : State) : s.frameToGap.race = s.race := rfl
@[simp] theorem State.frameToGap_cfg (s : State) : s.frameToGap.cfg = s.cfg := rfl
@[simp] theorem State.frameToGap_rdata (s : State) : s.frameToGap.rdata = s.rdata := rfl
@[simp] theorem State.frameToGap_agenda (s : State) : s.frameToGap.agenda = s.agenda := rfl
@[simp] theorem State.frameToGap_freeEvents (s : State) : s.frameToGap.freeEvents = s.freeEvents := rfl
@[simp] theorem State.frameToGap_draws (s : State) : s.frameToGap.draws = s.draws := rfl
@[simp] theorem State.frameToGap_resets (s : State) : s.frameToGap.resets = s.resets := rfl

@[simp] theorem State.gapToFrame_fb (s : State) : s.gapToFrame.fb = s.fb := rfl
@[simp] theorem State.gapToFrame_phase (s : State) : s.gapToFrame.phase = .frame := rfl
@[simp] theorem State.gapToFrame_armed (s : State) : s.gapToFrame.armed = s.armed := rfl
@[simp] theorem State.gapToFrame_done (s : State) : s.gapToFrame.done = s.done := rfl
@[simp] theorem State.gapToFrame_desc (s : State) : s.gapToFrame.desc = ⟨.fb, s.lenReg, 0⟩ := rfl
@[simp] theorem State.gapToFrame_lenReg (s : State) : s.gapToFrame.lenReg = s.lenReg := rfl
@[simp] theorem State.gapToFrame_xcPend (s : State) : s.gapToFrame.xcPend = false := rfl
@[simp] theorem State.gapToFrame_faultPend (s : State) : s.gapToFrame.faultPend = s.faultPend := rfl
@[simp] theorem State.gapToFrame_halted (s : State) : s.gapToFrame.halted = s.halted := rfl
@[simp] theorem State.gapToFrame_faultCount (s : State) : s.gapToFrame.faultCount = s.faultCount := rfl
@[simp] theorem State.gapToFrame_err (s : State) : s.gapToFrame.err = s.err := rfl
@[simp] theorem State.gapToFrame_color (s : State) : s.gapToFrame.color = s.color := rfl
@[simp] theorem State.gapToFrame_wire (s : State) : s.gapToFrame.wire = s.wire := rfl
@[simp] theorem State.gapToFrame_phaseTrace (s : State) : s.gapToFrame.phaseTrace = s.phaseTrace ++ [.frame] := rfl
@[simp] theorem State.gapToFrame_doneSets (s : State) : s.gapToFrame.doneSets = s.doneSets := rfl
@[simp] theorem State.gapToFrame_race (s : State) : s.gapToFrame.race = s.race := rfl
@[simp] theorem State.gapToFrame_cfg (s : State) : s.gapToFrame.cfg = s.cfg := rfl
@[simp] theorem State.gapToFrame_rdata (s : State) : s.gapToFrame.rdata = s.rdata := rfl
@[simp] theorem State.gapToFrame_agenda (s : State) : s.gapToFrame.agenda = s.agenda := rfl
@[simp] theorem State.gapToFrame_freeEvents (s : State) : s.gapToFrame.freeEvents = s.freeEvents := rfl
@[simp] theorem State.gapToFrame_draws (s : State) : s.gapToFrame.draws = s.draws := rfl
@[simp] theorem State.gapToFrame_resets (s : State) : s.gapToFrame.resets = s.resets := rfl

@[simp] theorem State.popEvent_fb (s : State) : s.popEvent.fb = s.fb := by
  unfold State.popEvent; split <;> rfl
@[simp] theorem State.popEvent_phase (s : State) : s.popEvent.phase = s.phase := by
  unfold State.popEvent; split <;> rfl
@[simp] theorem State.popEvent_armed (s : State) : s.popEvent.armed = s.armed := by
  unfold State.popEvent; split <;> rfl
@[simp] theorem State.popEvent_done (s : State) : s.popEvent.done = s.done := by
  unfold State.popEvent; split <;> rfl
@[simp] theorem State.popEvent_desc (s : State) : s.popEvent.desc = s.desc := by
  unfold State.popEvent; split <;> rfl
@[simp] theorem State.popEvent_lenReg (s : State) : s.popEvent.lenReg = s.lenReg := by
  unfold State.popEvent; split <;> rfl
@[simp] theorem State.popEvent_xcPend (s : State) : s.popEvent.xcPend = s.xcPend := by
  unfold State.popEvent; split <;> rfl
@[simp] theorem State.popEvent_faultPend (s : State) : s.popEvent.faultPend = s.faultPend := by
  unfold State.popEvent; split <;> rfl
@[simp] theorem State.popEvent_halted (s : State) : s.popEvent.halted = s.halted := by
  unfold State.popEvent; split <;> rfl
@[simp] theorem State.popEvent_faultCount (s : State) : s.popEvent.faultCount = s.faultCount := by
  unfold State.popEvent; split <;> rfl
@[simp] theorem State.popEvent_err (s : State) : s.popEvent.err = s.err := by
  unfold State.popEvent; split <;> rfl
@[simp] theorem State.popEvent_color (s : State) : s.popEvent.color = s.color := by
  unfold State.popEvent; split <;> rfl
@[simp] theorem State.popEvent_wire (s : State) : s.popEvent.wire = s.wire := by
  unfold State.popEvent; split <;> rfl
@[simp] theorem State.popEvent_phaseTrace (s : State) : s.popEvent.phaseTrace = s.phaseTrace := by
  unfold State.popEvent; split <;> rfl
@[simp] theorem State.popEvent_doneSets (s : State) : s.popEvent.doneSets = s.doneSets := by
  unfold State.popEvent; split <;> rfl
@[simp] theorem State.popEvent_race (s : State) : s.popEvent.race = s.race := by
  unfold State.popEvent; split <;> rfl
@[simp] theorem State.popEvent_cfg (s : State) : s.popEvent.cfg = s.cfg := by
  unfold State.popEvent; split <;> rfl
@[simp] theorem State.popEvent_rdata (s : State) : s.popEvent.rdata = s.rdata := by
  unfold State.popEvent; split <;> rfl
@[simp] theorem State.popEvent_draws (s : State) : s.popEvent.draws = s.draws := by
  unfold State.popEvent; split <;> rfl
@[simp] theorem State.popEvent_resets (s : State) : s.popEvent.resets = s.resets := by
  unfold State.popEvent; split <;> rfl

theorem State.popEvent_cons (s : State) (e : Event) (rest : List Event) (h : s.agenda = e :: rest) :
    s.popEvent = { s with agenda := rest } := by
  simp [State.popEvent, h]

theorem State.nextEvent_cons (s : State) (e : Event) (rest : List Event) (h : s.agenda = e :: rest) :
    s.nextEvent = e := by
  simp [State.nextEvent, h]

end Sys2Proof.Machine
end

