-- ==== Sys2Proof/Laws/Exec.lean ====
section
/-! SUPPORT. Sys2Proof/Laws/Exec.lean: said once, everything an instruction can do, everything an agent's step can do,
and everything a step of the machine can do. Proofs about all instructions or all steps take these apart. -/

namespace Sys2Proof.Machine

/-- What a host instruction can make of the state s. -/
inductive HostEffect (s : State) : State → Prop where
  | nothing : HostEffect s s
  | reads (v : Word) : HostEffect s (s.setRdata v)
  | refuses (a : Access) : HostEffect s (s.refuse a)
  | raises (c : ErrCode) (op : BitVec 4) (info : BitVec 16) (hc : c ≠ .none) : HostEffect s (s.raise c op info)
  | writesFb (i : Nat) (bytes : List Byte) (h : i + bytes.length ≤ s.cfg.fbLen) : HostEffect s (s.hostWriteFb i bytes)
  | arms (len : BitVec 16) (ha : s.armed = false) (h1 : 1 ≤ len.toNat) (h2 : len.toNat ≤ s.cfg.fbLen) :
      HostEffect s (s.arm len)
  | disarms : HostEffect s s.disarm
  | writesStatus (v : Word) : HostEffect s (s.writeStatus v)
  | writesColor (c : Color) : HostEffect s { s with color := c }

@[simp] theorem enc_length (p : Params) (b : Byte) : (enc p b).length = 8 := by simp [enc]

@[simp] theorem ledSymbols_length (p : Params) (c : Color) : (ledSymbols p c).length = 24 := by simp [ledSymbols]

@[simp] theorem splitLE_length (v : Word) (n : Nat) : (splitLE v n).length = n := by simp [splitLE]

/-- A host write of FB touches FB and RACE only. Stated for any bytes: with the bytes of a waveform in their place, let
the terms match as they stand rather than unfold. -/
theorem State.hostWriteFb_frame (s : State) (i : Nat) (bytes : List Byte) :
    s.hostWriteFb i bytes =
      { s with fb := (s.hostWriteFb i bytes).fb, race := (s.hostWriteFb i bytes).race } := rfl

/-- When a host write of FB leaves RACE set (R213). -/
theorem State.hostWriteFb_race_iff (s : State) (i : Nat) (bytes : List Byte) :
    (s.hostWriteFb i bytes).race = true ↔
      s.race = true ∨ (s.armed = true ∧ s.phase = .frame ∧ s.halted = false) := by
  simp [State.racing, and_assoc]

/-- Writing an LED touches FB and RACE only. -/
theorem State.encodeLedAt_frame (s : State) (base : Nat) :
    s.encodeLedAt base = { s with fb := (s.encodeLedAt base).fb, race := (s.encodeLedAt base).race } :=
  s.hostWriteFb_frame base _

theorem State.encodeLedAt_race_iff (s : State) (base : Nat) :
    (s.encodeLedAt base).race = true ↔
      s.race = true ∨ (s.armed = true ∧ s.phase = .frame ∧ s.halted = false) :=
  s.hostWriteFb_race_iff base _

/-- FB after writing an LED, byte by byte. -/
theorem State.fbByte_encodeLedAt (s : State) (base j : Nat) :
    (s.encodeLedAt base).fbByte j =
      if base ≤ j ∧ j < base + 24 then (ledSymbols s.cfg s.color).getD (j - base) 0 else s.fbByte j := by
  unfold State.encodeLedAt
  rw [State.fbByte_hostWriteFb, ledSymbols_length]

theorem State.arm_frame (s : State) (len : BitVec 16) :
    s.arm len = { s with
      fb := (s.arm len).fb, done := false, lenReg := len, phase := .frame, desc := ⟨.fb, len, 0⟩, xcPend := false,
      faultPend := false, halted := false, armed := true, phaseTrace := [.frame], doneSets := 0 } := rfl

/-- FB after START's fill, byte by byte. -/
theorem State.fbByte_arm (s : State) (len : BitVec 16) (i : Nat) :
    (s.arm len).fbByte i = if i < len.toNat then startByte s.cfg else s.fbByte i := by
  have h := s.fbByte_writeFb 0 i (List.replicate len.toNat (startByte s.cfg))
  simp only [List.length_replicate, Nat.zero_le, true_and, Nat.zero_add, Nat.sub_zero] at h
  have e : (s.arm len).fbByte i = (s.writeFb 0 (List.replicate len.toNat (startByte s.cfg))).fbByte i := rfl
  rw [e, h]
  split
  next hi => simp [hi]
  next => rfl

theorem execStart_effect (len : BitVec 16) (s : State) : ∃ t, execStart len s = .next t ∧ HostEffect s t := by
  unfold execStart
  refine ⟨_, rfl, ?_⟩
  split
  · exact .raises _ _ _ (by decide)
  next ha =>
    split
    · exact .raises _ _ _ (by decide)
    next h =>
      refine .arms len (by simpa using ha) ?_ (by omega)
      have : len.toNat ≠ 0 := fun h0 => h (.inl (BitVec.eq_of_toNat_eq (by simpa using h0)))
      omega

theorem execEncCh_effect (o : BitVec 16) (v : Byte) (s : State) :
    ∃ t, execEncCh o v s = .next t ∧ HostEffect s t := by
  unfold execEncCh
  refine ⟨_, rfl, ?_⟩
  split
  · exact .raises _ _ _ (by decide)
  · exact .writesFb _ _ (by simp only [enc_length]; omega)

theorem execEncLed_effect (o : BitVec 16) (s : State) : ∃ t, execEncLed o s = .next t ∧ HostEffect s t := by
  unfold execEncLed
  refine ⟨_, rfl, ?_⟩
  split
  · exact .raises _ _ _ (by decide)
  · exact .writesFb _ _ (by simp only [ledSymbols_length]; omega)

theorem execEncStrip_effect (k : BitVec 16) (s : State) : ∃ t, execEncStrip k s = .next t ∧ HostEffect s t := by
  unfold execEncStrip
  refine ⟨_, rfl, ?_⟩
  split
  · exact .raises _ _ _ (by decide)
  · exact .writesFb _ _ (by simp only [ledSymbols_length, Params.fbLen]; omega)

/-- An accepted access lies in FB. -/
theorem State.fbAccepts_le {s : State} {o : Offset} {n : Width} (h : s.fbAccepts o n = true) :
    fbIndex o + n.bytes ≤ s.cfg.fbLen := by
  simp only [State.fbAccepts, inFbWindow, Bool.and_eq_true, decide_eq_true_eq] at h
  unfold fbIndex
  omega

theorem execWrFb_effect (o : Offset) (n : Width) (v : Word) (s : State) :
    ∃ t, execWrFb o n v s = .next t ∧ HostEffect s t := by
  unfold execWrFb
  refine ⟨_, rfl, ?_⟩
  split
  next h =>
    have hle : fbIndex o + (splitLE v n.bytes).length ≤ s.cfg.fbLen := by
      rw [splitLE_length]; exact State.fbAccepts_le h
    exact .writesFb _ _ hle
  · exact .refuses _

theorem execRdFb_effect (o : Offset) (n : Width) (s : State) : ∃ t, execRdFb o n s = .next t ∧ HostEffect s t := by
  unfold execRdFb
  refine ⟨_, rfl, ?_⟩
  split
  · exact .reads _
  · exact .refuses _

theorem execWrCmd_effect (w : Word) (s : State) : ∃ t, execWrCmd w s = .next t ∧ HostEffect s t := by
  have ill : ∃ t, (Host.Outcome.next (s.raiseIllegal w) : Result) = .next t ∧ HostEffect s t :=
    ⟨_, rfl, .raises _ _ _ (by decide)⟩
  unfold execWrCmd caseCommand
  repeat' split
  all_goals first
    | exact ill
    | exact execStart_effect _ s
    | exact execEncCh_effect _ _ s
    | exact execEncLed_effect _ s
    | exact execEncStrip_effect _ s
    | exact ⟨_, rfl, .nothing⟩
    | exact ⟨_, rfl, .disarms⟩

/-- Every instruction completes, with one of the effects above. -/
theorem exec_effect (i : Instr) (s : State) : ∃ t, exec i s = .next t ∧ HostEffect s t := by
  cases i with
  | nop => exact ⟨_, rfl, .nothing⟩
  | start len => exact execStart_effect len s
  | stop => exact ⟨_, rfl, .disarms⟩
  | encCh o v => exact execEncCh_effect o v s
  | encLed o => exact execEncLed_effect o s
  | encStrip k => exact execEncStrip_effect k s
  | illegalOp67 w => exact ⟨_, rfl, .raises _ _ _ (by decide)⟩
  | illegalOp8F w => exact ⟨_, rfl, .raises _ _ _ (by decide)⟩
  | illegalReservedBits w => exact ⟨_, rfl, .raises _ _ _ (by decide)⟩
  | rdCmd => exact ⟨_, rfl, .reads _⟩
  | wrCmd w => exact execWrCmd_effect w s
  | rdStatus => exact ⟨_, rfl, .reads _⟩
  | wrStatus v => exact ⟨_, rfl, .writesStatus v⟩
  | rdColor => exact ⟨_, rfl, .reads _⟩
  | wrColor v => exact ⟨_, rfl, .writesColor _⟩
  | rdLen => exact ⟨_, rfl, .reads _⟩
  | wrLen v => exact ⟨_, rfl, .nothing⟩
  | rdFaultCount => exact ⟨_, rfl, .reads _⟩
  | wrFaultCount v => exact ⟨_, rfl, .nothing⟩
  | rdErr => exact ⟨_, rfl, .reads _⟩
  | wrErr v => exact ⟨_, rfl, .nothing⟩
  | rdConfig => exact ⟨_, rfl, .reads _⟩
  | wrConfig v => exact ⟨_, rfl, .nothing⟩
  | rdPatterns => exact ⟨_, rfl, .reads _⟩
  | wrPatterns v => exact ⟨_, rfl, .nothing⟩
  | rdFb o n => exact execRdFb_effect o n s
  | wrFb o n v => exact execWrFb_effect o n v s
  | accessFault a => exact ⟨_, rfl, .refuses a⟩

/-- If an instruction answers next t, then t is one of the effects above. -/
theorem exec_cases {i : Instr} {s t : State} (h : exec i s = .next t) : HostEffect s t := by
  obtain ⟨u, hu, he⟩ := exec_effect i s
  rw [hu] at h
  cases h
  exact he

theorem State.beatEnabled_iff (s : State) :
    s.beatEnabled = true ↔
      s.armed = true ∧ s.halted = false ∧ s.xcPend = false ∧ s.desc.pos.toNat < s.desc.dlen.toNat := by
  simp [State.beatEnabled, and_assoc]

/-- What the sequencer can make of the state (R176 to R179). -/
theorem State.sequencer_cases {s t : State} (h : s.sequencer = some t) :
    s.armed = true ∧ s.halted = false ∧
      ((s.faultPend = true ∧ t = s.faultStep) ∨
       (s.faultPend = false ∧ s.xcPend = true ∧ s.phase = .frame ∧ t = s.frameToGap) ∨
       (s.faultPend = false ∧ s.xcPend = true ∧ s.phase = .gap ∧ t = s.gapToFrame)) := by
  unfold State.sequencer at h
  split at h
  next ha =>
    refine ⟨by simp_all, by simp_all, ?_⟩
    split at h
    next hf => exact .inl ⟨hf, by simpa using h.symm⟩
    next hf =>
      split at h
      next hx =>
        split at h
        next hp => exact .inr (.inl ⟨by simpa using hf, hx, hp, by simpa using h.symm⟩)
        next hp => exact .inr (.inr ⟨by simpa using hf, hx, hp, by simpa using h.symm⟩)
      next => cases h
  next => cases h

/-- What a step of the machine can make of the state: the event, taken up (`popEvent`), and then its effect. -/
inductive StepEffect (s : State) : State → Prop where
  | host (a : Access) (t : State) (he : s.nextEvent = .host a)
      (hx : exec (s.decodeHost a) s.popEvent = .next t) (h : HostEffect s.popEvent t) : StepEffect s t
  | stuck : StepEffect s s.popEvent
  | beats (he : s.nextEvent = .beat) (hb : s.popEvent.beatEnabled = true) :
      StepEffect s (s.popEvent.moveByte s.popEvent.sourceByte)
  | faults (he : s.nextEvent = .faultBeat) (hb : s.popEvent.beatEnabled = true) :
      StepEffect s { s.popEvent.moveByte (Config.wireDraw s.draws) with faultPend := true, draws := s.draws + 1 }
  | sequences (t : State) (he : s.nextEvent = .sequencer) (h : s.popEvent.sequencer = some t) : StepEffect s t
  | resets (he : s.nextEvent = .reset) : StepEffect s s.popEvent.platformReset

/-- Every step answers next, with one of the effects above. -/
theorem step_effect (s : State) : ∃ t, step s = .next t ∧ StepEffect s t := by
  unfold step
  cases he : s.nextEvent with
  | host a =>
    obtain ⟨t, hx, h⟩ := exec_effect (s.decodeHost a) s.popEvent
    exact ⟨t, hx, .host a t he hx h⟩
  | beat =>
    refine ⟨_, rfl, ?_⟩
    unfold State.takeBeat State.orStuck State.beat
    split
    next hb => exact .beats he hb
    next => exact .stuck
  | faultBeat =>
    refine ⟨_, rfl, ?_⟩
    unfold State.takeFaultBeat State.orStuck State.faultBeat
    split
    next hb => simpa using StepEffect.faults he hb
    next => exact .stuck
  | sequencer =>
    refine ⟨_, rfl, ?_⟩
    unfold State.takeSequencer State.orStuck
    cases h : s.popEvent.sequencer with
    | none => exact .stuck
    | some t => exact .sequences t he h
  | reset => exact ⟨_, rfl, .resets he⟩

/-- If a step answers next t, then t is one of the effects above. -/
theorem step_cases {s t : State} (h : step s = .next t) : StepEffect s t := by
  obtain ⟨u, hu, he⟩ := step_effect s
  rw [hu] at h
  cases h
  exact he

end Sys2Proof.Machine
end

