-- ==== Sys2Proof/Laws/Engine.lean ====
section
/-! SUPPORT. Sys2Proof/Laws/Engine.lean: the transfer engine's steps in the terms of 42_sequencer.md. -/

namespace Sys2Proof.Machine

/-- The byte a beat emits: FB's, or 0x00 of RB (R173). -/
theorem State.sourceByte_eq (s : State) :
    s.sourceByte = match s.desc.src with | .fb => s.fbByte s.desc.pos.toNat | .rb => 0x00#8 := by
  unfold State.sourceByte
  cases s.desc.src with
  | fb => rfl
  | rb =>
    simp only [Params.rb, List.getElem?_replicate]
    split <;> rfl

/-- DESC.POS does not wrap where a beat is enabled (R31). -/
theorem Desc.pos_succ (d : Desc) (h : d.pos.toNat < d.dlen.toNat) : (d.pos + 1).toNat = d.pos.toNat + 1 := by
  have := d.dlen.isLt
  simp only [BitVec.toNat_add, BitVec.ofNat_eq_ofNat, BitVec.toNat_ofNat]
  omega

/-- A beat is the last of its transfer, on the numbers. -/
theorem Desc.last_iff (d : Desc) (h : d.pos.toNat < d.dlen.toNat) :
    d.pos + 1 = d.dlen ↔ d.pos.toNat + 1 = d.dlen.toNat := by
  rw [BitVec.toNat_eq, d.pos_succ h]

/-- A beat, where one is enabled. -/
theorem State.moveByte_eq (s : State) (b : Byte) (hx : s.xcPend = false) (h : s.desc.pos.toNat < s.desc.dlen.toNat) :
    s.moveByte b = { s with
      wire := s.wire ++ [b]
      desc := ⟨s.desc.src, s.desc.dlen, s.desc.pos + 1⟩
      xcPend := decide (s.desc.pos.toNat + 1 = s.desc.dlen.toNat) } := by
  unfold State.moveByte
  rw [hx, Bool.false_or, decide_eq_decide.2 (s.desc.last_iff h)]

/-- A step at a beat of the agenda. -/
theorem step_beat {s : State} {rest : List Event} (ha : s.agenda = .beat :: rest) :
    step s = .next { s with agenda := rest }.takeBeat := by
  simp [step, State.nextEvent, State.popEvent, ha]

/-- A step at a faulting beat of the agenda. -/
theorem step_faultBeat {s : State} {rest : List Event} (ha : s.agenda = .faultBeat :: rest) :
    step s = .next { s with agenda := rest }.takeFaultBeat := by
  simp [step, State.nextEvent, State.popEvent, ha]

/-- A step at the sequencer's turn on the agenda. -/
theorem step_sequencer {s : State} {rest : List Event} (ha : s.agenda = .sequencer :: rest) :
    step s = .next { s with agenda := rest }.takeSequencer := by
  simp [step, State.nextEvent, State.popEvent, ha]

theorem State.takeBeat_of_enabled {s : State} (h : s.beatEnabled = true) : s.takeBeat = s.moveByte s.sourceByte := by
  simp [State.takeBeat, State.orStuck, State.beat, h]

theorem State.takeFaultBeat_of_enabled {s : State} (h : s.beatEnabled = true) :
    s.takeFaultBeat = { s.moveByte (Config.wireDraw s.draws) with faultPend := true, draws := s.draws + 1 } := by
  simp [State.takeFaultBeat, State.orStuck, State.faultBeat, h]

end Sys2Proof.Machine
end

