-- ==== Sys2Proof/Laws/Operands.lean ====
section
/-! SUPPORT. Sys2Proof/Laws/Operands.lean: what each operand form gives, byte by byte and bit by bit. -/

namespace Sys2Proof.Machine

/-- The bounds a legal build keeps (R7, R12). -/
theorem Params.legal_bounds {p : Params} (h : p.legal = true) :
    1 ≤ p.nleds ∧ p.nleds ≤ 2560 ∧ 1 ≤ p.resetLen ∧ p.resetLen ≤ 255 := by
  simp only [Params.legal, Bool.and_eq_true, decide_eq_true_eq] at h
  omega

theorem Config.build_legal : Config.build.legal = true := by
  unfold Config.build
  split
  next h => exact h
  next => decide

theorem enc_getD (p : Params) (b : Byte) {j : Nat} (h : j < 8) :
    (enc p b).getD j 0 = if b.getLsbD (7 - j) then p.high else p.low := by
  simp [enc, encSymbol, h]

theorem ledSymbols_slot0 (p : Params) (c : Color) {j : Nat} (h : j < 8) :
    (ledSymbols p c).getD j 0 = if (c.channel p.order.slot0).getLsbD (7 - j) then p.high else p.low := by
  rw [← enc_getD _ _ h]
  unfold ledSymbols
  rw [List.getD_append _ _ _ _ (by simp; omega), List.getD_append _ _ _ _ (by simp; omega)]

theorem ledSymbols_slot1 (p : Params) (c : Color) {j : Nat} (h : j < 8) :
    (ledSymbols p c).getD (8 + j) 0 = if (c.channel p.order.slot1).getLsbD (7 - j) then p.high else p.low := by
  rw [← enc_getD _ _ h]
  unfold ledSymbols
  rw [List.getD_append _ _ _ _ (by simp; omega), List.getD_append_right _ _ _ _ (by simp)]
  simp

theorem ledSymbols_slot2 (p : Params) (c : Color) {j : Nat} (h : j < 8) :
    (ledSymbols p c).getD (16 + j) 0 = if (c.channel p.order.slot2).getLsbD (7 - j) then p.high else p.low := by
  rw [← enc_getD _ _ h]
  unfold ledSymbols
  rw [List.getD_append_right _ _ _ _ (by simp)]
  simp

theorem splitLE_getD (v : Word) {n k : Nat} (h : k < n) : (splitLE v n).getD k 0 = v.extractLsb' (8 * k) 8 := by
  simp [splitLE, h]

theorem Width.bytes_le (n : Width) : n.bytes ≤ 4 := by cases n <;> decide

theorem State.fbAccepts_iff (s : State) (o : Offset) (n : Width) :
    s.fbAccepts o n = true ↔ InFbWindow s.cfg.fbLen o n.bytes := by
  simp [State.fbAccepts, inFbWindow, isAligned, InFbWindow, and_assoc]

/-- Each bit of a little-endian value: bit b mod 8 of byte b / 8, and 0 above. -/
theorem loadLE_getLsbD (f : Nat → Byte) (n i b : Nat) (hn : n ≤ 4) :
    (loadLE f i n).getLsbD b = if b < 8 * n then (f (i + b / 8)).getLsbD (b % 8) else false := by
  induction n generalizing i b with
  | zero => simp [loadLE]
  | succ n ih =>
    simp only [loadLE, BitVec.getLsbD_or, BitVec.getLsbD_setWidth, BitVec.getLsbD_shiftLeft]
    rw [ih _ _ (by omega)]
    by_cases h8 : b < 8
    · simp [h8, show b < 32 by omega, show b < 8 * (n + 1) by omega, show b / 8 = 0 by omega, Nat.mod_eq_of_lt h8]
    · by_cases hh : b < 8 * (n + 1)
      · rw [if_pos hh, if_pos (by omega), show (b - 8) / 8 = b / 8 - 1 by omega, show (b - 8) % 8 = b % 8 by omega,
          show i + 1 + (b / 8 - 1) = i + b / 8 by omega]
        simp only [show b < 32 by omega, h8, decide_true, decide_false, Bool.true_and, Bool.not_false,
          Bool.or_eq_right_iff_imp]
        intro h
        exact absurd (BitVec.lt_of_getLsbD h) h8
      · rw [if_neg hh, if_neg (by omega)]
        simp only [Bool.and_false, Bool.or_false]
        rw [BitVec.getLsbD_of_ge (f i) b (by omega), Bool.and_false]

/-- Recording over an error already kept only sets MULTI (R236). -/
theorem Err.record_of_error {e : Err} (h : e.code ≠ .none) (c : ErrCode) (op : BitVec 4) (info : BitVec 16) :
    e.record c op info = { e with multi := true } := by
  simp [Err.record, h]

end Sys2Proof.Machine
end

