-- ==== Sys2Proof/Laws/PerInstr.lean ====
section
/-! SUPPORT. Sys2Proof/Laws/PerInstr.lean: each instruction's encoding meets the match and mask of its row of
spec/opcode_table.json. -/

namespace Sys2Proof.Laws.TableRow

/-- A command word with this match and mask. -/
def Command (pattern mask : Word) (c : Code) : Prop :=
  ∃ w, c = .command w ∧ w &&& mask = pattern

/-- A 32-bit read of the register at this offset. -/
def Reads (o : Offset) (c : Code) : Prop := c = .access (.read o .word)

/-- A 32-bit write of v to the register at this offset. -/
def Writes (o : Offset) (v : Word) (c : Code) : Prop := c = .access (.write o .word v)

/-- The row of the table an instruction stands in, said of its encoding, for a frame buffer of L bytes. -/
def Row (L : Nat) (c : Code) : Instr → Prop
  | .nop _ => Command 0x00000000#32 0xF0000000#32 c
  | .start _ => Command 0x10000000#32 0xFFFF0000#32 c
  | .stop => Command 0x20000000#32 0xFFFFFFFF#32 c
  | .encCh _ _ => Command 0x30000000#32 0xFF000000#32 c
  | .encLed _ => Command 0x40000000#32 0xFFFF0000#32 c
  | .encStrip _ => Command 0x50000000#32 0xFFFF0000#32 c
  | .illegalOp67 _ => Command 0x60000000#32 0xE0000000#32 c
  | .illegalOp8F _ => Command 0x80000000#32 0x80000000#32 c
  | .illegalReservedBits _ => ∃ w : Word, c = .command w ∧ 1 ≤ (w.extractLsb' 28 4).toNat ∧ (w.extractLsb' 28 4).toNat ≤ 5
  | .rdCmd => Reads 0x0000 c
  | .wrCmd w => Writes 0x0000 w c
  | .rdStatus => Reads 0x0004 c
  | .wrStatus v => Writes 0x0004 v c
  | .rdColor => Reads 0x0008 c
  | .wrColor v => Writes 0x0008 v c
  | .rdLen => Reads 0x000C c
  | .wrLen v => Writes 0x000C v c
  | .rdFaultCount => Reads 0x0010 c
  | .wrFaultCount v => Writes 0x0010 v c
  | .rdErr => Reads 0x0014 c
  | .wrErr v => Writes 0x0014 v c
  | .rdConfig => Reads 0x0018 c
  | .wrConfig v => Writes 0x0018 v c
  | .rdPatterns => Reads 0x001C c
  | .wrPatterns v => Writes 0x001C v c
  | .rdFb _ _ => ∃ o n, c = .access (.read o n) ∧ InFbWindow L o n.bytes
  | .wrFb _ _ _ => ∃ o n v, c = .access (.write o n v) ∧ InFbWindow L o n.bytes
  | .accessFault _ => ∃ a, c = .access a ∧ ¬ a.Accepted L

/-- A well-formed instruction's encoding meets its row. -/
def Statement (i : Instr) : Prop := ∀ L, WellFormed L i = true → Row L (encode i) i

/-- A word put together from an opcode and the rest, masked down to the opcode's place. -/
theorem command_of_bits {pattern mask w : Word} (h : ∀ k, k < 32 → (w.getLsbD k && mask.getLsbD k) = pattern.getLsbD k) :
    Command pattern mask (.command w) := by
  refine ⟨w, rfl, BitVec.eq_of_getLsbD_eq fun k hk => ?_⟩
  rw [BitVec.getLsbD_and]
  exact h k hk

theorem nop (hint : BitVec 28) : Statement (.nop hint) := by
  intro L _
  refine command_of_bits fun k hk => ?_
  rw [BitVec.getLsbD_append]
  interval_cases k <;> simp

theorem imm16 (op : BitVec 4) (f : BitVec 16) :
    Command ((op ++ 0#12 ++ 0#16 : BitVec 32)) 0xFFFF0000#32 (.command (op ++ 0#12 ++ f)) := by
  refine command_of_bits fun k hk => ?_
  rw [BitVec.getLsbD_append, BitVec.getLsbD_append, BitVec.getLsbD_append, BitVec.getLsbD_append]
  interval_cases k <;> simp

theorem start (len : BitVec 16) : Statement (.start len) := fun _ _ => imm16 0x1 len

theorem stop : Statement .stop := fun _ _ => ⟨_, rfl, by decide⟩

theorem encCh (offset : BitVec 16) (value : Byte) : Statement (.encCh offset value) := by
  intro L _
  refine command_of_bits fun k hk => ?_
  rw [BitVec.getLsbD_append, BitVec.getLsbD_append, BitVec.getLsbD_append]
  interval_cases k <;> simp

theorem encLed (offset : BitVec 16) : Statement (.encLed offset) := fun _ _ => imm16 0x4 offset

theorem encStrip (ledIdx : BitVec 16) : Statement (.encStrip ledIdx) := fun _ _ => imm16 0x5 ledIdx

theorem illegalOp67 (w : Word) : Statement (.illegalOp67 w) := by
  intro L h
  have h' : w.extractLsb' 29 3 = 0b011#3 := by simpa [WellFormed] using h
  refine command_of_bits fun k hk => ?_
  have hb : ∀ j, j < 3 → w.getLsbD (29 + j) = (0b011#3).getLsbD j := by
    intro j hj
    rw [← h', BitVec.getLsbD_extractLsb']
    simp [hj]
  have h0 := hb 0 (by decide)
  have h1 := hb 1 (by decide)
  have h2 := hb 2 (by decide)
  interval_cases k <;> simp_all

theorem illegalOp8F (w : Word) : Statement (.illegalOp8F w) := by
  intro L h
  have h' : w.extractLsb' 31 1 = 0b1#1 := by simpa [WellFormed] using h
  have hb : w.getLsbD 31 = true := by
    have := congrArg (·.getLsbD 0) h'
    simpa using this
  refine command_of_bits fun k hk => ?_
  interval_cases k <;> simp [hb]

theorem illegalReservedBits (w : Word) : Statement (.illegalReservedBits w) := by
  intro L h
  have h' : HasReservedBitSet w := by simpa only [WellFormed, decide_eq_true_eq] using h
  refine ⟨w, rfl, ?_⟩
  rcases h' with h | h | h | h | h <;> rw [h.1] <;> decide

theorem rdCmd : Statement .rdCmd := fun _ _ => rfl
theorem wrCmd (w : Word) : Statement (.wrCmd w) := fun _ _ => rfl
theorem rdStatus : Statement .rdStatus := fun _ _ => rfl
theorem wrStatus (v : Word) : Statement (.wrStatus v) := fun _ _ => rfl
theorem rdColor : Statement .rdColor := fun _ _ => rfl
theorem wrColor (v : Word) : Statement (.wrColor v) := fun _ _ => rfl
theorem rdLen : Statement .rdLen := fun _ _ => rfl
theorem wrLen (v : Word) : Statement (.wrLen v) := fun _ _ => rfl
theorem rdFaultCount : Statement .rdFaultCount := fun _ _ => rfl
theorem wrFaultCount (v : Word) : Statement (.wrFaultCount v) := fun _ _ => rfl
theorem rdErr : Statement .rdErr := fun _ _ => rfl
theorem wrErr (v : Word) : Statement (.wrErr v) := fun _ _ => rfl
theorem rdConfig : Statement .rdConfig := fun _ _ => rfl
theorem wrConfig (v : Word) : Statement (.wrConfig v) := fun _ _ => rfl
theorem rdPatterns : Statement .rdPatterns := fun _ _ => rfl
theorem wrPatterns (v : Word) : Statement (.wrPatterns v) := fun _ _ => rfl

theorem rdFb (o : Offset) (width : Width) : Statement (.rdFb o width) :=
  fun _ h => ⟨o, width, rfl, by simpa only [WellFormed, decide_eq_true_eq] using h⟩

theorem wrFb (o : Offset) (width : Width) (v : Word) : Statement (.wrFb o width v) :=
  fun _ h => ⟨o, width, v, rfl, by simpa only [WellFormed, decide_eq_true_eq] using h⟩

theorem accessFault (a : Access) : Statement (.accessFault a) :=
  fun _ h => ⟨a, rfl, by simpa only [WellFormed, decide_eq_true_eq] using h⟩

end Sys2Proof.Laws.TableRow
end

