-- ==== Sys2Proof/Machine/AsmText.lean ====
section
/-! DEFINITION. Sys2Proof/Machine/AsmText.lean: the text of the assembler (R110, R111): one instruction a line, `;` starts a
comment, numbers are decimal or `0x` hexadecimal. Names are as the spec spells them (log entry 22). -/

namespace Sys2Proof.Machine

/-- The line without its comment. -/
def dropComment : List Char → List Char
  | [] => []
  | c :: cs => if c = ';' then [] else c :: dropComment cs

/-- The words of a line, in order: blanks part them, and a comma is a word of its own. `word` is the word being read, its
last letter first. -/
def tokensFrom (word : List Char) : List Char → List (List Char)
  | [] => if word = [] then [] else [word.reverse]
  | c :: cs =>
    let done := if word = [] then [] else [word.reverse]
    if c = ' ' ∨ c = '\t' then done ++ tokensFrom [] cs
    else if c = ',' then done ++ [','] :: tokensFrom [] cs
    else tokensFrom (c :: word) cs

/-- The value of one digit. -/
def digit (c : Char) : Option Nat :=
  let n := c.toNat
  if 0x30 ≤ n ∧ n ≤ 0x39 then some (n - 0x30)
  else if 0x41 ≤ n ∧ n ≤ 0x46 then some (n - 0x41 + 10)
  else if 0x61 ≤ n ∧ n ≤ 0x66 then some (n - 0x61 + 10)
  else none

/-- The value of a digit in a base. -/
def digitIn (base : Nat) (c : Char) : Option Nat :=
  match digit c with
  | none => none
  | some d => if d < base then some d else none

/-- The value of a run of digits in a base, `acc` being what stands before them. DESIGN CHOICE (log entry 22): R18 calls `_`
a digit separator and says not where it may stand; here one `_` may stand between two digits, and nowhere else. -/
def digits (base acc : Nat) : List Char → Option Nat
  | [] => none
  | [c] => (digitIn base c).map fun d => acc * base + d
  | c :: '_' :: cs =>
    match digitIn base c with
    | none => none
    | some d => digits base (acc * base + d) cs
  | c :: c' :: cs =>
    match digitIn base c with
    | none => none
    | some d => digits base (acc * base + d) (c' :: cs)

/-- A number, decimal or `0x` hexadecimal (R110). -/
def number : List Char → Option Nat
  | '0' :: 'x' :: cs => digits 16 0 cs
  | cs => digits 10 0 cs

/-- A register's name (R71). -/
def regName (t : List Char) : Option RegName :=
  if t = ['C', 'M', 'D'] then some .cmd
  else if t = ['S', 'T', 'A', 'T', 'U', 'S'] then some .status
  else if t = ['C', 'O', 'L', 'O', 'R'] then some .color
  else if t = ['L', 'E', 'N'] then some .len
  else if t = ['F', 'A', 'U', 'L', 'T', '_', 'C', 'O', 'U', 'N', 'T'] then some .faultCount
  else if t = ['E', 'R', 'R'] then some .err
  else if t = ['C', 'O', 'N', 'F', 'I', 'G'] then some .config
  else if t = ['P', 'A', 'T', 'T', 'E', 'R', 'N', 'S'] then some .patterns
  else none

/-- A place as it is written: `FB+i` or a register's name (R110), else an offset as a number (DESIGN CHOICE, log entry
25). -/
def place (t : List Char) : Option Place :=
  match t with
  | 'F' :: 'B' :: '+' :: n => (number n).map .fb
  | _ =>
    match regName t with
    | some r => some (.reg r)
    | none => (number t).map .offset

/-- The numbers of an operand list, a comma between each two. -/
def numbers : List (List Char) → Option (List Nat)
  | [] => some []
  | [t] => (number t).map fun n => [n]
  | t :: [','] :: rest =>
    match number t, numbers rest with
    | some n, some (m :: ms) => some (n :: m :: ms)
    | _, _ => none
  | _ => none

/-- A load of this width, at any place (R110; at a register narrower than 32 bits, or at a bare offset: DESIGN CHOICE, log
entry 25). -/
def loadLine (n : Width) : List (List Char) → Option AsmLine
  | [t] => (place t).map (.load n)
  | _ => none

/-- A store of this width, at any place (R110; log entry 25, as for a load). -/
def storeLine (n : Width) : List (List Char) → Option AsmLine
  | [t, [','], v] =>
    match place t, number v with
    | some p, some v => some (.store n p v)
    | _, _ => none
  | _ => none

/-- The instruction a mnemonic and its operands stand for (R110, R111). -/
def instructionLine (m : List Char) (ops : List (List Char)) : Option AsmLine :=
  if m = ['l', 'd', '8'] then loadLine .byte ops
  else if m = ['l', 'd', '1', '6'] then loadLine .half ops
  else if m = ['l', 'd', '3', '2'] then loadLine .word ops
  else if m = ['s', 't', '8'] then storeLine .byte ops
  else if m = ['s', 't', '1', '6'] then storeLine .half ops
  else if m = ['s', 't', '3', '2'] then storeLine .word ops
  else
    match numbers ops with
    | some [] =>
      if m = ['n', 'o', 'p'] then some .nop
      else if m = ['s', 't', 'o', 'p'] then some .stop
      else if m = ['c', 'l', 'r', 'd', 'o', 'n', 'e'] then some .clrdone
      else if m = ['w', 'a', 'i', 't', 'd', 'o', 'n', 'e'] then some .waitdone
      else none
    | some [a] =>
      if m = ['s', 't', 'a', 'r', 't'] then some (.start a)
      else if m = ['a', 'r', 'm'] then some (.arm a)
      else if m = ['e', 'n', 'c', '.', 'l', 'e', 'd'] then some (.encLed a)
      else if m = ['e', 'n', 'c', '.', 's', 't', 'r', 'i', 'p'] then some (.encStrip a)
      else none
    | some [a, b] =>
      if m = ['e', 'n', 'c', '.', 'c', 'h'] then some (.encCh a b)
      else if m = ['e', 'n', 'c', 'c', 'h', 'a', 'n'] then some (.encchan a b)
      else none
    | some [a, b, c] =>
      if m = ['s', 'e', 't', 'c', 'o', 'l', 'o', 'r'] then some (.setcolor a b c) else none
    | some [a, b, c, d] =>
      if m = ['e', 'n', 'c', 'l', 'e', 'd'] then some (.encled a b c d)
      else if m = ['e', 'n', 'c', 's', 't', 'r', 'i', 'p'] then some (.encstrip a b c d)
      else none
    | _ => none

/-- The accesses one line of text stands for, none of them where it is blank or a comment; refused where it is no line of
R110 or R111, or an operand does not fit. -/
def assembleText (line : List Char) : Option (List Access) :=
  match tokensFrom [] (dropComment line) with
  | [] => some []
  | m :: ops =>
    match instructionLine m ops with
    | none => none
    | some l => assemble l

/-- The accesses of a text, line after line. -/
def assembleTextAll : List (List Char) → Option (List Access)
  | [] => some []
  | l :: ls => do pure ((← assembleText l) ++ (← assembleTextAll ls))

end Sys2Proof.Machine
end

