-- ==== Sys2Proof/Tests/Slice0.lean ====
section
/-! SUPPORT. Sys2Proof/Tests/Slice0.lean: tests, with expected results from spec/95_test_vectors.md (the vector's number
stands in each comment) or worked out by hand from the rule named, and the witnesses of the statements' hypotheses. -/

namespace Sys2Proof.Tests

open Sys2Proof.Machine

/-! ### States to test on -/

/-- After reset, in the spec's configuration EX. -/
def ex : State := { State.reset with cfg := Params.ex }

/-- After reset, in EX-D (DEBUG_HALT). -/
def exD : State := { ex with cfg := { Params.ex with faultPolicy := .debugHalt } }

/-- The state an instruction leaves. -/
def after (i : Instr) (s : State) : State :=
  match exec i s with
  | .next t => t
  | .fault _ => s
  | .refused _ => s

/-- The state a step leaves. -/
def afterStep (s : State) : State :=
  match step s with
  | .next t => t
  | .fault _ => s
  | .refused _ => s

/-- EX after `start 48` (C1). -/
def started : State := after (.start 48) ex

/-- Armed in FRAME over 48 bytes, at this position; FB is as reset left it. -/
def framing (pos : BitVec 16) : State :=
  { ex with armed := true, lenReg := 48, desc := ⟨.fb, 48, pos⟩, phaseTrace := [.frame] }

/-- FRAME with its transfer complete (Q3). -/
def frameDone : State := { framing 48 with xcPend := true }

/-- GAP with its transfer complete (Q7). -/
def gapDone : State :=
  { ex with
    armed := true, lenReg := 48, phase := .gap, desc := ⟨.rb, 2, 2⟩, xcPend := true, done := true
    phaseTrace := [.frame, .gap], doneSets := 1 }

/-- EX-D, frozen by a fault in FRAME (Q15). -/
def frozen : State :=
  { framing 11 with cfg := exD.cfg, faultPend := true, halted := true, faultCount := 1 }

/-- The next events. -/
def upNext (s : State) (events : List Event) : State := { s with agenda := events }

/-- FB[i .. i+n-1]. -/
def fbBytes (s : State) (i n : Nat) : List Byte := (List.range n).map fun k => s.fbByte (i + k)

/-- The word ERR reads as. -/
def errWord (s : State) : Word := s.err.word

/-! ### Ill-formed terms -/

theorem test_wf_op67 : WellFormed 48 (.illegalOp67 0x80000000) = false := by decide
theorem test_wf_op8F : WellFormed 48 (.illegalOp8F 0x70000000) = false := by decide
theorem test_wf_reserved_bits :
    WellFormed 48 (.illegalReservedBits 0x10000030) = false ∧ WellFormed 48 (.illegalReservedBits 0x61000000) = false := by
  decide
theorem test_wf_rdFb :
    WellFormed 48 (.rdFb 0x0FFF .byte) = false ∧ WellFormed 48 (.rdFb 0x1030 .byte) = false ∧
      WellFormed 48 (.rdFb 0x1001 .half) = false ∧ WellFormed 48 (.rdFb 0x102F .byte) = true := by decide
theorem test_wf_wrFb :
    WellFormed 48 (.wrFb 0x0FFC .word 0) = false ∧ WellFormed 48 (.wrFb 0x1030 .word 0) = false ∧
      WellFormed 48 (.wrFb 0x1002 .word 0) = false ∧ WellFormed 48 (.wrFb 0x102C .word 0) = true := by decide
theorem test_wf_accessFault :
    WellFormed 48 (.accessFault (.read 0x0004 .word)) = false ∧
      WellFormed 48 (.accessFault (.write 0x1000 .byte 0)) = false := by decide

/-! ### Decoding, each constructor from its encoding written out (R101, R104, R71) -/

theorem test_decode_nop : decodeCommand 0b0000_1111111111111111111111111111#32 = .nop 0xFFFFFFF := by decide
theorem test_decode_start : decodeCommand 0b0001_000000000000_0000000000110000#32 = .start 48 := by decide
theorem test_decode_stop : decodeCommand 0b0010_0000000000000000000000000000#32 = .stop := by decide
theorem test_decode_encCh : decodeCommand 0b0011_0000_0000000000101000_00000001#32 = .encCh 40 1 := by decide
theorem test_decode_encLed : decodeCommand 0b0100_000000000000_0000000000011000#32 = .encLed 24 := by decide
theorem test_decode_encStrip : decodeCommand 0b0101_000000000000_1111111111111111#32 = .encStrip 0xFFFF := by decide
theorem test_decode_op67 : decodeCommand 0x7FFFFFFF = .illegalOp67 0x7FFFFFFF := by decide
theorem test_decode_op8F : decodeCommand 0x80000000 = .illegalOp8F 0x80000000 := by decide
theorem test_decode_reserved_bits :
    decodeCommand 0x10010030 = .illegalReservedBits 0x10010030 ∧
      decodeCommand 0x38000000 = .illegalReservedBits 0x38000000 := by decide
theorem test_decode_reads :
    [0x00#16, 0x04, 0x08, 0x0C, 0x10, 0x14, 0x18, 0x1C].map (fun o => decodeAccess 48 (.read o .word)) =
      [.rdCmd, .rdStatus, .rdColor, .rdLen, .rdFaultCount, .rdErr, .rdConfig, .rdPatterns] := by decide
theorem test_decode_writes :
    [0x00#16, 0x04, 0x08, 0x0C, 0x10, 0x14, 0x18, 0x1C].map (fun o => decodeAccess 48 (.write o .word 7)) =
      [.wrCmd 7, .wrStatus 7, .wrColor 7, .wrLen 7, .wrFaultCount 7, .wrErr 7, .wrConfig 7, .wrPatterns 7] := by decide
/-- A16, and the last byte of FB. -/
theorem test_decode_rdFb :
    decodeAccess 48 (.read 0x102C .word) = .rdFb 0x102C .word ∧
      decodeAccess 48 (.read 0x102F .byte) = .rdFb 0x102F .byte := by decide
theorem test_decode_wrFb : decodeAccess 48 (.write 0x101E .byte 0xF8) = .wrFb 0x101E .byte 0xF8 := by decide
/-- A17 to A20, and an access at the top of the window. -/
theorem test_decode_accessFault :
    [Access.read 0x1030 .word, .read 0x1001 .half, .read 0x0004 .byte, .read 0x0020 .word, .write 0xFFFF .half 0].map
        (decodeAccess 48) =
      [.accessFault (.read 0x1030 .word), .accessFault (.read 0x1001 .half), .accessFault (.read 0x0004 .byte),
        .accessFault (.read 0x0020 .word), .accessFault (.write 0xFFFF .half 0)] := by decide
theorem test_encode_encCh : encode (.encCh 0xFFFF 0x00) = .command 0x30FFFF00 := by decide

/-! ### The host's two questions, on a row of each kind -/

theorem test_table_start : decodeTableWord 32 0x10000000 = some (.start 0) := by decide
theorem test_table_rdStatus : decodeTableWord 16 0x0004 = some .rdStatus := by decide
theorem test_table_wrStatus : decodeTableWord 51 (1 * 2 ^ 19 + 2 ^ 16 + 0x0004) = some (.wrStatus 1) := by decide
theorem test_fetch_start : errWord (afterStep (State.withFetchWord ex 32 0x10000031)) = 0x00310101 := by decide
theorem test_fetch_read : (afterStep (State.withFetchWord ex 16 0x0018)).rdata = 0x00020030 := by decide

/-! ### The instructions -/

/-- C16. -/
theorem test_nop : after (.nop 0xFFFFFFF) ex = ex := rfl
/-- C1. -/
theorem test_start :
    started.armed = true ∧ started.phase = .frame ∧ started.desc = ⟨.fb, 48, 0⟩ ∧ started.lenReg = 48 ∧
      started.done = false ∧ fbBytes started 0 48 = List.replicate 48 0xC0 ∧ started.statusWord = 0x00000002 := by
  decide
/-- C8: armed is checked before the length. -/
theorem test_start_order : errWord (after (.start 0) started) = 0x00000103 := by decide
/-- C10. -/
theorem test_stop :
    (after .stop { framing 10 with done := true }).statusWord = 0x00000001 ∧
      (after .stop { framing 10 with done := true }).desc = ⟨.fb, 0, 0⟩ := by decide
/-- C13. -/
theorem test_stop_halted :
    (after .stop frozen).halted = false ∧ (after .stop frozen).faultPend = false ∧ (after .stop frozen).faultCount = 1 := by
  decide
/-- E5. -/
theorem test_encCh :
    fbBytes (after (.encCh 8 0x5A) started) 7 10 = [0xC0, 0xC0, 0xF8, 0xC0, 0xF8, 0xF8, 0xC0, 0xF8, 0xC0, 0xC0] := by
  decide
/-- E9. -/
theorem test_encCh_bounds : errWord (after (.encCh 0xFFFF 0x00) ex) = 0xFFFF0302 := by decide
/-- E13: S2's color with P_ORDER = (R, G, B). -/
theorem test_encLed :
    fbBytes (after (.encLed 0) { ex with
        color := ⟨0x12, 0x34, 0x56⟩, cfg := { Params.ex with order := ⟨.r, .g, .b⟩ } }) 0 24 =
      [0xC0, 0xC0, 0xF8, 0xF8, 0xC0, 0xF8, 0xC0, 0xC0, 0xC0, 0xC0, 0xC0, 0xF8, 0xC0, 0xC0, 0xF8, 0xC0,
        0xC0, 0xF8, 0xC0, 0xF8, 0xC0, 0xF8, 0xF8, 0xC0] := by decide
/-- E15. -/
theorem test_encLed_bounds : errWord (after (.encLed 25) ex) = 0x00190402 := by decide
/-- E19. -/
theorem test_encStrip :
    fbBytes (after (.encStrip 1) { started with color := ⟨0x00, 0xFF, 0x00⟩ }) 24 24 =
      List.replicate 8 0xC0 ++ List.replicate 8 0xF8 ++ List.replicate 8 0xC0 := by decide
/-- E21: no wrap of the product. -/
theorem test_encStrip_bounds : errWord (after (.encStrip 0xFFFF) ex) = 0xFFFF0502 := by decide
/-- C17. -/
theorem test_illegalOp67 : errWord (after (.illegalOp67 0x60000000) ex) = 0x00000604 := by decide
/-- C18. -/
theorem test_illegalOp8F : errWord (after (.illegalOp8F 0xF1234567) ex) = 0x45670F04 := by decide
/-- C9. -/
theorem test_illegalReservedBits : errWord (after (.illegalReservedBits 0x10010030) ex) = 0x00300104 := by decide
/-- A1. -/
theorem test_rdCmd : (after .rdCmd { ex with rdata := 9 }).rdata = 0x00000000 := by decide
/-- E11: the word is decoded before anything runs. -/
theorem test_wrCmd : errWord (after (.wrCmd 0x31000000) ex) = 0x00000304 := by decide
/-- A3 and A4. -/
theorem test_rdStatus :
    (after .rdStatus { gapDone with xcPend := false }).rdata = 0x00000007 ∧
      (after .rdStatus frameDone).rdata = 0x00000012 := by decide
/-- Q15's STATUS. -/
theorem test_rdStatus_halted : (after .rdStatus frozen).rdata = 0x0000002A := by decide
/-- A5 and A6. -/
theorem test_wrStatus :
    (after (.wrStatus 0) gapDone).done = true ∧ (after (.wrStatus 0xFFFFFFFF) gapDone).done = false := by decide
/-- A7. -/
theorem test_color : (after .rdColor (after (.wrColor 0xFF00FF00) ex)).rdata = 0x0000FF00 := by decide
/-- R206's example. -/
theorem test_wrColor : (after (.wrColor 0xFF00FF00) ex).color = ⟨0x00, 0xFF, 0x00⟩ := by decide
/-- A8 and A9. -/
theorem test_len : (after .rdLen (after (.wrLen 5) started)).rdata = 0x00000030 := by decide
/-- R209 on Q15's count. -/
theorem test_faultCount : (after .rdFaultCount (after (.wrFaultCount 0) frozen)).rdata = 1 := by decide
/-- A10, and A25's write of ERR. -/
theorem test_err : (after .rdErr (after (.wrErr 0) (after (.start 0) ex))).rdata = 0x00000101 := by decide
/-- A12, and A25's write of CONFIG. -/
theorem test_config : (after .rdConfig (after (.wrConfig 0) exD)).rdata = 0x01020030 := by decide
/-- A13, and A25's write of PATTERNS. -/
theorem test_patterns : (after .rdPatterns (after (.wrPatterns 0) ex)).rdata = 0x0024F8C0 := by decide
/-- A15, then read back at each width (R72). -/
theorem test_wrFb : fbBytes (after (.wrFb 0x1004 .word 0x11223344) ex) 4 4 = [0x44, 0x33, 0x22, 0x11] := by decide
/-- A23 and A24. -/
theorem test_wrFb_race :
    (after (.wrFb 0x101E .byte 0xF8) started).race = true ∧ (after (.wrFb 0x101E .byte 0xF8) gapDone).race = false := by
  decide
/-- A14: FB[0..3] = C0 F8 C0 C0. -/
theorem test_rdFb :
    (after (.rdFb 0x1000 .word) (after (.wrFb 0x1001 .byte 0xF8) started)).rdata = 0xC0C0F8C0 ∧
      (after (.rdFb 0x1002 .half) (after (.wrFb 0x1001 .byte 0xF8) started)).rdata = 0xC0C0 := by decide
/-- A17. -/
theorem test_accessFault :
    errWord (after (.accessFault (.read 0x1030 .word)) ex) = 0x10300005 ∧
      (after (.accessFault (.read 0x1030 .word)) { ex with rdata := 9 }).rdata = 0 := by decide
/-- A22: the first error is kept. -/
theorem test_accessFault_multi :
    errWord (after (.start 0) (after (.accessFault (.read 0x0004 .byte)) ex)) = 0x00040015 := by decide

/-! ### The engine's steps -/

/-- Q2, where FB[47] is 0xC0. -/
theorem test_beat_last :
    (afterStep (upNext { started with desc := ⟨.fb, 48, 47⟩ } [.beat])).xcPend = true ∧
      (afterStep (upNext { started with desc := ⟨.fb, 48, 47⟩ } [.beat])).wire = [0xC0] := by decide
/-- Q11. -/
theorem test_faultBeat_last :
    (afterStep (upNext (framing 47) [.faultBeat])).xcPend = true ∧
      (afterStep (upNext (framing 47) [.faultBeat])).faultPend = true := by decide
/-- Q4. -/
theorem test_frame_to_gap :
    (afterStep (upNext frameDone [.sequencer])).done = true ∧
      (afterStep (upNext frameDone [.sequencer])).desc = ⟨.rb, 2, 0⟩ ∧
      (afterStep (upNext frameDone [.sequencer])).doneSets = 1 := by decide
/-- Q7. -/
theorem test_gap_to_frame :
    (afterStep (upNext gapDone [.sequencer])).desc = ⟨.fb, 48, 0⟩ ∧
      (afterStep (upNext gapDone [.sequencer])).done = true := by decide
/-- Q14. -/
theorem test_fault_wraps :
    (afterStep (upNext { framing 11 with faultPend := true, faultCount := 0xFFFFFFFF } [.sequencer])).faultCount = 0 := by
  decide
/-- Q12's order: with both pending, the fault step goes first. -/
theorem test_fault_first :
    (afterStep (upNext { frameDone with faultPend := true } [.sequencer])).phase = .frame ∧
      (afterStep (upNext { frameDone with faultPend := true } [.sequencer])).faultCount = 1 := by decide
/-- R260. -/
theorem test_reset_event :
    (afterStep (upNext { gapDone with faultCount := 5 } [.reset])).armed = false ∧
      (afterStep (upNext { gapDone with faultCount := 5 } [.reset])).faultCount = 0 := by decide
/-- S1 in EX2. -/
theorem test_enc : enc { Params.ex with high := 0x7E, low := 0x18 } 0xA5 = [0x7E, 0x18, 0x7E, 0x18, 0x18, 0x7E, 0x18, 0x7E] := by
  decide
/-- R175: 0xF8 = 11111000, most significant bit first, high for a 1. -/
theorem test_line : symbolLevels .msbFirst 0xF8 = [true, true, true, true, true, false, false, false] := by decide
/-- S7's second line. -/
theorem test_assemble :
    assemble (.encstrip 1 0x00 0xFF 0x00) =
      some [.write 0x0008 .word 0x0000FF00, .write 0x0000 .word 0x50000001] := by decide

/-- S7's second line as text, with a comment; an operand too wide; and `st8 FB+30, 0xF8` (A23). -/
theorem test_assembleText :
    assembleText "encstrip 1, 0x00, 0xFF, 0x00 ; LED 1".toList =
        some [.write 0x0008 .word 0x0000FF00, .write 0x0000 .word 0x50000001] ∧
      assembleText "start 65_536".toList = none ∧
      assembleText "  st8 FB+30, 0xF8".toList = some [.write 0x101E .byte 0xF8] ∧
      assembleText "; only a comment".toList = some [] := by decide

/-- A19, A20 and A21 (written as a store), which are then refused by the core, not by the assembler. -/
theorem test_assembleText_vectors :
    assembleText "ld8 STATUS".toList = some [.read 0x0004 .byte] ∧
      assembleText "ld32 0x0020".toList = some [.read 0x0020 .word] ∧
      assembleText "st16 CMD, 0x0000".toList = some [.write 0x0000 .half 0] ∧
      assembleText "st32 CMD, 0x7000_0000".toList = some [.write 0x0000 .word 0x70000000] := by decide

/-- Where `_` may not stand (log entry 22). -/
theorem test_number_separator :
    ["_", "_5", "5_", "5__5", "0x_5", "0x"].map (fun t => number t.toList) = List.replicate 6 none ∧
      number "65_536".toList = some 65536 ∧ number "0xFF_00".toList = some 0xFF00 := by decide

/-! ### Invariant states -/

theorem test_ex_inv : ex.Inv := by
  constructor <;> decide
theorem test_framing_inv : (framing 0).Inv := by
  constructor <;> decide
theorem test_frameDone_inv : frameDone.Inv := by
  constructor <;> decide
theorem test_gapDone_inv : gapDone.Inv := by
  constructor <;> decide
theorem test_frozen_inv : frozen.Inv := by
  constructor <;> decide
theorem test_inv_rejects : ¬ ({ framing 48 with xcPend := false } : State).Inv := by
  intro h
  have := h.xcPendIff
  revert this
  decide

/-! ### Witnesses: what the hypotheses of each statement are met by, at the boundaries of each clause -/

theorem witness_DecodeOfEncodeIsIdentity :
    [Instr.nop 0xFFFFFFF, .encCh 0xFFFF 0xFF, .illegalOp67 0x7FFFFFFF, .illegalOp8F 0x80000000, .illegalReservedBits 0x31000000,
        .rdFb 0x1000 .word, .wrFb 0x102F .byte 0xFF, .accessFault (.read 0xFFFF .byte)].map (WellFormed 48) =
      List.replicate 8 true := by decide

theorem witness_StepRunsDecodedAccess :
    (upNext ex [.host (.read 0x0004 .word), .beat]).agenda = .host (.read 0x0004 .word) :: [.beat] := rfl

theorem witness_StepRunsIssuedInstruction :
    WellFormed ex.cfg.fbLen (.encLed 24) = true ∧ WellFormed ex.cfg.fbLen (.wrFb 0x102C .word 1) = true ∧
      (upNext ex [.host (encode (.encLed 24)).toAccess]).agenda = .host (encode (.encLed 24)).toAccess :: [] :=
  ⟨rfl, rfl, rfl⟩

theorem witness_EmptyAgendaTakesAFreeEvent : ex.agenda = [] := rfl

theorem witness_FirstErrorIsKept : ex.err.code = .none ∧ (after (.start 0) ex).err.code ≠ .none := by decide

theorem witness_IllegalWordsRaiseIllegal :
    6 ≤ ((0x60000000 : Word).extractLsb' 28 4).toNat ∧ 6 ≤ ((0xFFFFFFFF : Word).extractLsb' 28 4).toNat ∧
      HasReservedBitSet 0x10010000 ∧ HasReservedBitSet 0x20000001 ∧ HasReservedBitSet 0x31000000 ∧
      HasReservedBitSet 0x48000000 ∧ HasReservedBitSet 0x5FFF0000 := by decide

theorem witness_ErrorsArePrecise :
    exec (.encCh 41 0xFF) ex = .next (after (.encCh 41 0xFF) ex) ∧ (after (.encCh 41 0xFF) ex).err ≠ ex.err ∧
      exec (.accessFault (.read 0x0020 .word)) ex = .next (after (.accessFault (.read 0x0020 .word)) ex) ∧
      (after (.accessFault (.read 0x0020 .word)) ex).err ≠ ex.err := ⟨rfl, by decide, rfl, by decide⟩

/-- A step that records nothing and a step that records a second error. -/
theorem witness_ErrIsSticky :
    let s := upNext (after (.start 0) ex) [.host (.read 0x0020 .word)]
    let u := upNext (after (.start 0) ex) [.sequencer]
    step s = .next (afterStep s) ∧ s.nextEvent ≠ .reset ∧ s.err.code ≠ .none ∧ (afterStep s).err ≠ s.err ∧
      step u = .next (afterStep u) ∧ u.nextEvent ≠ .reset ∧ u.err.code ≠ .none ∧ (afterStep u).err = u.err :=
  ⟨rfl, by decide, by decide, by decide, rfl, by decide, by decide, by decide⟩

theorem witness_RefusedAccessRaisesAccessError :
    ¬ (Access.read 0x1030 .word).Accepted 48 ∧ ¬ (Access.read 0x102F .half).Accepted 48 ∧
      ¬ (Access.write 0x0002 .word 0).Accepted 48 ∧ ¬ (Access.write 0x0000 .half 0).Accepted 48 ∧
      ¬ (Access.read 0x0020 .word).Accepted 48 ∧ ¬ (Access.read 0x0FFF .byte).Accepted 48 ∧
      (Access.read 0x001C .word).Accepted 48 ∧ (Access.write 0x102F .byte 0).Accepted 48 := by decide

theorem witness_WaveformRoundTrips : Params.ex.high ≠ Params.ex.low := by decide

/-- E7 and its neighbours on both sides of the range. -/
theorem witness_EncChWritesTheWaveform :
    (40#16).toNat + 8 ≤ ex.cfg.fbLen ∧ (0#16).toNat + 8 ≤ ex.cfg.fbLen ∧
      fbBytes (after (.encCh 40 0x01) started) 39 9 = List.replicate 8 0xC0 ++ [0xF8] := by decide

/-- E14, and RACE on a strip that is sending its frame. -/
theorem witness_EncLedWritesThreeSlots :
    (24#16).toNat + 24 ≤ ex.cfg.fbLen ∧ (after (.encLed 24) started).race = true ∧
      (after (.encLed 24) ex).race = false := by decide

theorem witness_EncStripIsEncLedAtTheLed :
    ex.cfg.legal = true ∧ (0#16).toNat < ex.cfg.nleds ∧ (1#16).toNat < ex.cfg.nleds := by decide

/-- E8, E15, E20. -/
theorem witness_EncoderOutOfBoundsIsRefused :
    ex.cfg.fbLen < (41#16).toNat + 8 ∧ ex.cfg.fbLen < (25#16).toNat + 24 ∧ ex.cfg.nleds ≤ (2#16).toNat := by decide

/-- S2's two colors: red and blue agree, green does not. -/
theorem witness_ChannelsAreIndependent :
    (0#16).toNat + 24 ≤ ex.cfg.fbLen ∧
      (Color.mk 0x12 0x34 0x56).channel ex.cfg.order.slot1 = (Color.mk 0x13 0x34 0x56).channel ex.cfg.order.slot1 ∧
      (Color.mk 0x12 0x34 0x56).channel ex.cfg.order.slot2 = (Color.mk 0x13 0x34 0x56).channel ex.cfg.order.slot2 ∧
      (Color.mk 0x12 0x34 0x56).channel ex.cfg.order.slot0 ≠ (Color.mk 0x13 0x34 0x56).channel ex.cfg.order.slot0 ∧
      (Color.mk 0x12 0x34 0x56).channel ex.cfg.order.slot0 = (Color.mk 0x12 0x35 0x57).channel ex.cfg.order.slot0 := by
  decide

/-- A disarmed state and a halted one, with the same FB. -/
theorem witness_EncoderIgnoresTheEngine :
    let u : State := { ex with armed := true, halted := true, phase := .gap }
    (∃ o v, Instr.encCh 0 0xFF = .encCh o v) ∧ u.fb = ex.fb ∧ u.color = ex.color ∧ u.err = ex.err ∧ u.cfg = ex.cfg ∧
      u.armed ≠ ex.armed := ⟨⟨_, _, rfl⟩, rfl, rfl, rfl, rfl, by decide⟩

theorem witness_NopDoesNothing :
    (0x0FFFFFFF : Word).extractLsb' 28 4 = 0 ∧ (0x00000000 : Word).extractLsb' 28 4 = 0 := by decide

/-- C1, C3, and C2's fill. -/
theorem witness_StartArmsTheEngine :
    ex.armed = false ∧ 1 ≤ (1#16).toNat ∧ (1#16).toNat ≤ ex.cfg.fbLen ∧ (48#16).toNat ≤ ex.cfg.fbLen ∧
      (after (.start 1) ex).fb = [(0, 0xC0)] ∧
      (after (.start 1) { ex with cfg := { Params.ex with startFill := .zero } }).fb = [(0, 0x00)] := by decide

/-- C9, C7, and C4 with C5. -/
theorem witness_StartChecksInOrder :
    let reservedBit : Word := 0x10010030
    let armed : Word := 0x10000030
    (reservedBit.extractLsb' 28 4 = 1 ∧ reservedBit.extractLsb' 16 12 ≠ 0) ∧
      (armed.extractLsb' 28 4 = 1 ∧ armed.extractLsb' 16 12 = 0 ∧ (framing 0).armed = true) ∧
      ex.armed = false ∧ ((0x10000000 : Word).extractLsb' 0 16).toNat = 0 ∧
      ex.cfg.fbLen < ((0x10000031 : Word).extractLsb' 0 16).toNat := by decide

/-- C11 and C12. -/
theorem witness_StopDisarmsTheEngine :
    ex.Inv ∧ ex.armed = false ∧ (0x20000001 : Word).extractLsb' 28 4 = 2 ∧ (0x20000001 : Word).extractLsb' 0 28 ≠ 0 :=
  ⟨test_ex_inv, rfl, by decide, by decide⟩

/-- C15 and C14. -/
theorem witness_RestartNeedsAStop :
    frozen.Inv ∧ frozen.halted = true ∧ 1 ≤ (48#16).toNat ∧ (48#16).toNat ≤ frozen.cfg.fbLen ∧
      (after (.start 48) (after .stop frozen)).armed = true :=
  ⟨test_frozen_inv, rfl, by decide, by decide, by decide⟩

theorem witness_ConfigReadReportsTheBuild : ex.cfg.legal = true ∧ exD.cfg.legal = true := by decide

theorem witness_ReadsHaveNoSideEffect :
    (Access.read 0x001C .word).Accepted ex.cfg.fbLen ∧ (Access.read 0x102F .byte).Accepted ex.cfg.fbLen ∧
      ¬ (Access.read 0x1030 .byte).Accepted ex.cfg.fbLen ∧ ¬ (Access.read 0x001C .half).Accepted ex.cfg.fbLen := by decide

theorem witness_FbReadIsLittleEndian :
    InFbWindow ex.cfg.fbLen 0x1000 Width.word.bytes ∧ InFbWindow ex.cfg.fbLen 0x102E Width.half.bytes ∧
      InFbWindow ex.cfg.fbLen 0x102F Width.byte.bytes := by decide

theorem witness_FbWriteIsLittleEndian :
    InFbWindow ex.cfg.fbLen 0x102C Width.word.bytes ∧ (after (.wrFb 0x102C .word 0) (framing 0)).race = true ∧
      (after (.wrFb 0x102C .word 0) ex).race = false := by decide

/-- A15, read back. -/
theorem witness_FbReadAfterWrite :
    InFbWindow ex.cfg.fbLen 0x1004 Width.half.bytes ∧
      (after (.rdFb 0x1004 .half) (after (.wrFb 0x1004 .half 0x11223344) ex)).rdata = 0x3344 := by decide

/-- Q1, and a beat from RB (Q6). -/
theorem witness_BeatMovesOneByte :
    let s := upNext (framing 0) [.beat]
    let u := upNext { gapDone with xcPend := false, desc := ⟨.rb, 2, 1⟩ } [.beat]
    (s.agenda = .beat :: [] ∧ s.armed = true ∧ s.halted = false ∧ s.xcPend = false ∧
        s.desc.pos.toNat < s.desc.dlen.toNat) ∧
      (u.agenda = .beat :: [] ∧ u.armed = true ∧ u.halted = false ∧ u.xcPend = false ∧
        u.desc.pos.toNat < u.desc.dlen.toNat) := by decide

/-- Q10. -/
theorem witness_FaultingBeatEmitsADraw :
    let s := upNext (framing 10) [.faultBeat]
    s.agenda = .faultBeat :: [] ∧ s.armed = true ∧ s.halted = false ∧ s.xcPend = false ∧
      s.desc.pos.toNat < s.desc.dlen.toNat := by decide

/-- Q16, Q3, Q15, and an armed engine with nothing pending. -/
theorem witness_StuckAgentsDoNothing :
    let stuck (s : State) := ¬ (s.armed = true ∧ s.halted = false ∧ s.xcPend = false ∧ s.desc.pos.toNat < s.desc.dlen.toNat)
    let idle (s : State) := ¬ (s.armed = true ∧ s.halted = false ∧ (s.xcPend = true ∨ s.faultPend = true))
    stuck (upNext ex [.beat]) ∧ stuck (upNext frameDone [.faultBeat]) ∧ stuck (upNext frozen [.beat]) ∧
      idle (upNext ex [.sequencer]) ∧ idle (upNext frozen [.sequencer]) ∧ idle (upNext (framing 0) [.sequencer]) := by decide

theorem witness_FrameCompletesIntoGap :
    let s := upNext frameDone [.sequencer]
    s.agenda = .sequencer :: [] ∧ s.armed = true ∧ s.halted = false ∧ s.xcPend = true ∧ s.faultPend = false ∧
      s.phase = .frame := by decide

theorem witness_GapCompletesIntoFrame :
    let s := upNext gapDone [.sequencer]
    s.agenda = .sequencer :: [] ∧ s.armed = true ∧ s.halted = false ∧ s.xcPend = true ∧ s.faultPend = false ∧
      s.phase = .gap := by decide

theorem witness_FaultStepFollowsThePolicy :
    let s := upNext { framing 11 with faultPend := true } [.sequencer]
    let u := upNext { framing 11 with faultPend := true, cfg := exD.cfg } [.sequencer]
    (s.agenda = .sequencer :: [] ∧ s.armed = true ∧ s.halted = false ∧ s.faultPend = true ∧
        s.cfg.faultPolicy = .production) ∧
      (u.agenda = .sequencer :: [] ∧ u.armed = true ∧ u.halted = false ∧ u.faultPend = true ∧
        u.cfg.faultPolicy = .debugHalt) := by decide

theorem witness_FaultsDoNotDisturbThePhases :
    let s := upNext (framing 20) [.faultBeat, .sequencer]
    s.agenda = .faultBeat :: .sequencer :: [] ∧ s.cfg.faultPolicy = .production ∧ s.armed = true ∧ s.halted = false ∧
      s.xcPend = false ∧ s.faultPend = false ∧ s.desc.pos.toNat < s.desc.dlen.toNat := by decide

theorem witness_FramePhaseEmitsTheFrame :
    let s := upNext { framing 0 with lenReg := 2, desc := ⟨.fb, 2, 0⟩ } [.beat, .beat, .sequencer]
    s.agenda = List.replicate (2#16).toNat .beat ++ [.sequencer] ∧ s.armed = true ∧ s.halted = false ∧
      s.xcPend = false ∧ s.desc = ⟨.fb, 2, 0⟩ ∧ 1 ≤ (2#16).toNat := ⟨rfl, rfl, rfl, rfl, rfl, by decide⟩

/-- Two cycles of a one-byte frame, about to start. -/
def twoCycles : State :=
  upNext { framing 0 with lenReg := 1, desc := ⟨.fb, 1, 0⟩ }
    [.beat, .sequencer, .beat, .beat, .sequencer, .beat, .sequencer, .beat, .beat, .sequencer]

theorem witness_CyclesPutFramesAndGapsOnTheWire :
    twoCycles.Inv ∧ twoCycles.armed = true ∧ twoCycles.halted = false ∧ twoCycles.faultPend = false ∧
      twoCycles.phase = .frame ∧ twoCycles.desc.pos = 0 ∧
      twoCycles.agenda = (List.replicate 2 (List.replicate twoCycles.lenReg.toNat Event.beat ++ [Event.sequencer] ++
        List.replicate twoCycles.cfg.resetLen Event.beat ++ [Event.sequencer])).flatten ++ [] := by
  refine ⟨?_, rfl, rfl, rfl, rfl, rfl, rfl⟩
  constructor <;> decide

theorem witness_ResetLeavesTheResetValues :
    (upNext gapDone [.reset]).agenda = .reset :: [] ∧ (afterStep (upNext gapDone [.reset])).done = false := by decide

theorem witness_EveryStepKeepsTheInvariant :
    let s := upNext frameDone [.sequencer]
    (framing 0).Inv ∧ gapDone.Inv ∧ frozen.Inv ∧ s.Inv ∧ step s = .next (afterStep s) := by
  refine ⟨test_framing_inv, test_gapDone_inv, test_frozen_inv, ?_, rfl⟩
  constructor <;> decide

theorem witness_DoneIsSetOnlyByAFrameCompleting :
    let s := upNext frameDone [.sequencer]
    step s = .next (afterStep s) ∧ s.done = false ∧ (afterStep s).done = true := ⟨rfl, by decide, by decide⟩

/-- Each of the three ways. -/
theorem witness_DoneIsClearedOnlyByTheHost :
    let s := upNext gapDone [.host (.write 0x0004 .word 1)]
    let t := upNext { ex with done := true } [.host (.write 0x0000 .word 0x10000001)]
    let u := upNext gapDone [.reset]
    (step s = .next (afterStep s) ∧ s.done = true ∧ (afterStep s).done = false) ∧
      (step t = .next (afterStep t) ∧ t.done = true ∧ (afterStep t).done = false) ∧
      (step u = .next (afterStep u) ∧ u.done = true ∧ (afterStep u).done = false) :=
  ⟨⟨rfl, by decide, by decide⟩, ⟨rfl, by decide, by decide⟩, ⟨rfl, by decide, by decide⟩⟩

theorem witness_HostCannotTouchTheEngine :
    exec (decodeAccess gapDone.cfg.fbLen (.write 0x0004 .word 1)) gapDone = .next (after (.wrStatus 1) gapDone) ∧
      ∀ v, Access.write 0x0004 .word 1 ≠ .write 0x0000 .word v := ⟨rfl, fun _ => by simp⟩

theorem witness_EngineStepsLeaveTheHostsState :
    let s := upNext (framing 0) [.faultBeat]
    let u := upNext gapDone [.sequencer]
    step s = .next (afterStep s) ∧ s.nextEvent = .faultBeat ∧ step u = .next (afterStep u) ∧ u.nextEvent = .sequencer ∧
      (upNext (framing 0) [.beat]).nextEvent = .beat := ⟨rfl, rfl, rfl, rfl, rfl⟩

/-- Both ways out of a halt. -/
theorem witness_HaltEndsOnlyByStopOrReset :
    let s := upNext frozen [.host (.write 0x0000 .word 0x20000000)]
    let u := upNext frozen [.reset]
    s.Inv ∧ step s = .next (afterStep s) ∧ s.halted = true ∧ (afterStep s).halted = false ∧
      u.Inv ∧ step u = .next (afterStep u) ∧ u.halted = true ∧ (afterStep u).halted = false := by
  refine ⟨?_, rfl, by decide, by decide, ?_, rfl, by decide, by decide⟩ <;> constructor <;> decide

theorem witness_FaultCountChangesOnlyByFaultSteps :
    let s := upNext { framing 11 with faultPend := true, faultCount := 0xFFFFFFFF } [.sequencer]
    step s = .next (afterStep s) ∧ s.nextEvent ≠ .reset ∧ (afterStep s).faultCount ≠ s.faultCount :=
  ⟨rfl, by decide, by decide⟩

/-- On a beat and on a faulting beat. -/
theorem witness_WireGrowsOnlyByBeats :
    let s := upNext { gapDone with xcPend := false, desc := ⟨.rb, 2, 0⟩ } [.beat]
    let u := upNext (framing 0) [.faultBeat]
    (step s = .next (afterStep s) ∧ s.nextEvent ≠ .reset ∧ (afterStep s).wire ≠ s.wire) ∧
      (step u = .next (afterStep u) ∧ u.nextEvent ≠ .reset ∧ (afterStep u).wire.length ≠ u.wire.length) :=
  ⟨⟨rfl, by decide, by decide⟩, ⟨rfl, by decide, by decide⟩⟩

theorem witness_BuildIsConstantAndRaceIsSticky :
    let s := upNext { framing 0 with race := true } [.host (.write 0x0000 .word 0x20000000)]
    step s = .next (afterStep s) ∧ s.nextEvent ≠ .reset ∧ s.race = true := ⟨rfl, by decide, rfl⟩

theorem witness_SymbolsGoOutBitByBit :
    let s : State := { ex with wire := [0xF8, 0xC0] }
    s.wire[1]? = some 0xC0 ∧ s.lineLevels[8 * 1 + 2]? = some false ∧ s.lineLevels.length = 16 := by decide

/-- The largest operand that fits and the smallest that does not. -/
theorem witness_AssemblerGivesTheWords :
    (assemble (.start 0xFFFF)).isSome = true ∧ (assemble (.start 0x10000)).isSome = false ∧
      (assemble (.encCh 0x10000 0)).isSome = false ∧ (assemble (.encCh 0 0x100)).isSome = false ∧
      (assemble (.encCh 0xFFFF 0xFF)).isSome = true ∧ (assemble (.encstrip 0xFFFF 0xFF 0xFF 0xFF)).isSome = true := by decide

end Sys2Proof.Tests
end

/-! ## What a host access leaves alone, and which access does otherwise (R47, R243) -/

namespace Sys2Proof

/-- The instructions that write none of the engine's fields and not DONE: all but START, STOP and the write of CMD that
brings them, and the write of STATUS. -/
def Instr.isQuiet : Instr → Bool
  | .start _ | .stop | .wrCmd _ | .wrStatus _ => false
  | _ => true

theorem decodeFb_isQuiet (a : Access) : (decodeFb a).isQuiet = true := by
  cases a <;> rfl

/-- Of the accesses at a register's offset only two writes are not quiet: CMD's and STATUS's. -/
theorem decodeRegister_cases (a : Access) (hw : a.width = .word) :
    (∃ w, a = .write 0x0000 .word w ∧ decodeRegister a = .wrCmd w) ∨
    (∃ v, a = .write 0x0004 .word v ∧ decodeRegister a = .wrStatus v) ∨
    (decodeRegister a).isQuiet = true := by
  cases a with
  | read o n =>
    refine .inr (.inr ?_)
    simp only [decodeRegister]
    repeat' split
    all_goals rfl
  | write o n v =>
    obtain rfl : n = .word := hw
    by_cases h0 : o = 0x00#16
    · subst h0; exact .inl ⟨v, rfl, rfl⟩
    by_cases h4 : o = 0x04#16
    · subst h4; exact .inr (.inl ⟨v, rfl, rfl⟩)
    refine .inr (.inr ?_)
    simp only [decodeRegister, h0, h4, if_false]
    repeat' split
    all_goals rfl

theorem decodeAccess_cases (L : Nat) (a : Access) :
    (∃ w, a = .write 0x0000 .word w ∧ decodeAccess L a = .wrCmd w) ∨
    (∃ v, a = .write 0x0004 .word v ∧ decodeAccess L a = .wrStatus v) ∨
    (decodeAccess L a).isQuiet = true := by
  unfold decodeAccess
  split
  · split
    next h => exact decodeRegister_cases a h.1
    next => exact .inr (.inr rfl)
  · refine .inr (.inr ?_)
    split
    · split
      · exact decodeFb_isQuiet a
      · rfl
    · rfl

/-- A word with START's OP and its reserved bits 0 (R101) is START's for the operand it carries. -/
theorem startWord_eq_append (w : Word) (h0 : w.extractLsb' 28 4 = 0x1#4) (h1 : w.extractLsb' 16 12 = 0#12) :
    w = 0x1000#16 ++ w.extractLsb' 0 16 := by
  simp only [BitVec.toNat_eq, BitVec.toNat_append, BitVec.extractLsb'_toNat, BitVec.toNat_ofNat,
    Nat.shiftRight_eq_div_pow] at h0 h1 ⊢
  rw [← Nat.shiftLeft_add_eq_or_of_lt (by omega)]
  omega

/-- The only command words that are not quiet are START's and STOP's (R104). -/
theorem decodeCommand_cases (w : Word) :
    (∃ len, w = 0x1000#16 ++ len ∧ decodeCommand w = .start len) ∨
    (w = 0x20000000#32 ∧ decodeCommand w = .stop) ∨
    (decodeCommand w).isQuiet = true := by
  unfold decodeCommand caseCommand
  repeat' split
  all_goals try exact .inr (.inr rfl)
  next h0 h1 => exact .inl ⟨_, startWord_eq_append w h0 h1, rfl⟩
  next h0 h1 =>
    refine .inr (.inl ⟨?_, rfl⟩)
    simp only [BitVec.toNat_eq, BitVec.extractLsb'_toNat, BitVec.toNat_ofNat, Nat.shiftRight_eq_div_pow] at h0 h1 ⊢
    omega

/-- A function of what a command word is can be taken into the cases of R108. -/
theorem apply_caseCommand {α β : Type} (f : α → β) (w : Word) (nop start stop encCh encLed encStrip rb op67 op8F) :
    f (caseCommand w nop start stop encCh encLed encStrip rb op67 op8F) =
      caseCommand w (fun x => f (nop x)) (fun x => f (start x)) (f stop) (fun x y => f (encCh x y))
        (fun x => f (encLed x)) (fun x => f (encStrip x)) (fun x => f (rb x)) (fun x => f (op67 x))
        (fun x => f (op8F x)) := by
  simp only [caseCommand, apply_ite f]

end Sys2Proof

namespace Sys2Proof.Machine

/-- t differs from s in what the host owns only: FB, ERR, COLOR, RACE and the value last read. -/
def State.EngineUntouched (s t : State) : Prop :=
  t = { s with fb := t.fb, err := t.err, color := t.color, race := t.race, rdata := t.rdata }

namespace State.EngineUntouched

theorem nothing (s : State) : s.EngineUntouched s := rfl
theorem setRdata (s : State) (v : Word) : s.EngineUntouched (s.setRdata v) := rfl
theorem raise (s : State) (c : ErrCode) (op : BitVec 4) (info : BitVec 16) : s.EngineUntouched (s.raise c op info) := rfl
theorem hostWriteFb (s : State) (i : Nat) (bytes : List Byte) : s.EngineUntouched (s.hostWriteFb i bytes) := rfl

theorem refuse (s : State) (a : Access) : s.EngineUntouched (s.refuse a) := by
  cases a <;> rfl

/-- An instruction that makes a check has one of two effects. -/
theorem of_ite {s t u : State} (c : Prop) [Decidable c] (ht : s.EngineUntouched t) (hu : s.EngineUntouched u) :
    s.EngineUntouched (if c then t else u) := by
  split
  · exact ht
  · exact hu

end State.EngineUntouched

open State.EngineUntouched in
theorem exec_quiet (i : Instr) (s : State) (hi : i.isQuiet = true) :
    ∃ t, exec i s = .next t ∧ s.EngineUntouched t := by
  cases i with
  | start len => cases hi
  | stop => cases hi
  | wrCmd w => cases hi
  | wrStatus v => cases hi
  | nop => exact ⟨_, rfl, nothing s⟩
  | wrLen | wrFaultCount | wrErr | wrConfig | wrPatterns => exact ⟨_, rfl, nothing s⟩
  | rdCmd | rdStatus | rdColor | rdLen | rdFaultCount | rdErr | rdConfig | rdPatterns =>
    exact ⟨_, rfl, setRdata s _⟩
  | illegalOp67 w | illegalOp8F w | illegalReservedBits w => exact ⟨_, rfl, raise s _ _ _⟩
  | wrColor v => exact ⟨_, rfl, rfl⟩
  | encCh o v => exact ⟨_, execEncCh.eq_def .., of_ite _ (raise s _ _ _) (hostWriteFb s _ _)⟩
  | encLed o => exact ⟨_, execEncLed.eq_def .., of_ite _ (raise s _ _ _) (hostWriteFb s _ _)⟩
  | encStrip k => exact ⟨_, execEncStrip.eq_def .., of_ite _ (raise s _ _ _) (hostWriteFb s _ _)⟩
  | rdFb o n => exact ⟨_, rfl, of_ite _ (setRdata s _) (refuse s _)⟩
  | wrFb o n v => exact ⟨_, rfl, of_ite _ (hostWriteFb s _ _) (refuse s _)⟩
  | accessFault a => exact ⟨_, rfl, refuse s a⟩

/-- R202: a write of CMD runs the instruction its word decodes to. -/
theorem exec_wrCmd (w : Word) (s : State) : exec (.wrCmd w) s = exec (decodeCommand w) s := by
  unfold decodeCommand
  rw [apply_caseCommand (exec · s)]
  rfl

/-- What a host access can make of the state s, with the access that can. -/
inductive AccessEffect (s : State) : Access → State → Prop where
  | arms (len : BitVec 16) (ha : s.armed = false) :
      AccessEffect s (.write 0x0000 .word (0x1000#16 ++ len)) (s.arm len)
  | disarms : AccessEffect s (.write 0x0000 .word 0x20000000#32) s.disarm
  | writesStatus (v : Word) : AccessEffect s (.write 0x0004 .word v) (s.writeStatus v)
  | quiet (a : Access) (t : State) (h : s.EngineUntouched t) : AccessEffect s a t

theorem execStart_cases (len : BitVec 16) (s : State) :
    ∃ t, execStart len s = .next t ∧ (s.EngineUntouched t ∨ (s.armed = false ∧ t = s.arm len)) := by
  unfold execStart
  refine ⟨_, rfl, ?_⟩
  split
  · exact .inl (.raise ..)
  next ha =>
    split
    · exact .inl (.raise ..)
    · exact .inr ⟨by simpa using ha, rfl⟩

theorem exec_quiet_cases {i : Instr} {s t : State} (hi : i.isQuiet = true) (h : exec i s = .next t) :
    s.EngineUntouched t := by
  obtain ⟨u, hu, he⟩ := exec_quiet i s hi
  cases hu.symm.trans h
  exact he

/-- If a host access answers next t, then t is one of the effects above. -/
theorem access_cases {L : Nat} {a : Access} {s t : State} (h : exec (decodeAccess L a) s = .next t) :
    AccessEffect s a t := by
  rcases decodeAccess_cases L a with ⟨w, rfl, hd⟩ | ⟨v, rfl, hd⟩ | hq
  · rw [hd, exec_wrCmd] at h
    rcases decodeCommand_cases w with ⟨len, rfl, hc⟩ | ⟨rfl, hc⟩ | hq
    · rw [hc] at h
      obtain ⟨u, hu, he⟩ := execStart_cases len s
      cases hu.symm.trans h
      rcases he with he | ⟨ha, rfl⟩
      · exact .quiet _ _ he
      · exact .arms len ha
    · rw [hc] at h
      cases h
      exact .disarms
    · exact .quiet _ _ (exec_quiet_cases hq h)
  · rw [hd] at h
    cases h
    exact .writesStatus v
  · exact .quiet _ _ (exec_quiet_cases hq h)

/-- Settles O53: each effect an access can have, and the access that has it. -/
theorem hostCannotTouchTheEngine : Obligations.HostCannotTouchTheEngine := by
  intro s t a h
  cases access_cases h with
  | arms len ha => exact ⟨rfl, rfl, rfl, fun hcmd => absurd rfl (hcmd _)⟩
  | disarms => exact ⟨rfl, rfl, rfl, fun hcmd => absurd rfl (hcmd _)⟩
  | writesStatus v => exact ⟨rfl, rfl, rfl, fun _ => ⟨rfl, rfl, rfl, rfl, rfl, rfl, rfl, rfl, rfl⟩⟩
  | quiet a t h =>
    rw [show t = _ from h]
    exact ⟨rfl, rfl, rfl, fun _ => ⟨rfl, rfl, rfl, rfl, rfl, rfl, rfl, rfl, rfl⟩⟩

/-! ## The fault step, under both policies -/

/-- R177: PRODUCTION clears FAULT_PEND, DEBUG_HALT keeps it and sets HALTED. -/
theorem State.faultStep_eq (s : State) :
    s.faultStep = { s with
      faultCount := s.faultCount + 1
      faultPend := s.faultPend && decide (s.cfg.faultPolicy = .debugHalt)
      halted := s.halted || decide (s.cfg.faultPolicy = .debugHalt) } := by
  unfold State.faultStep
  cases s.cfg.faultPolicy <;> simp

theorem State.faultStep_done (s : State) : s.faultStep.done = s.done := by rw [s.faultStep_eq]

/-! ## Which step changes DONE, HALTED and FAULT_COUNT -/

theorem HostEffect.done_imp {s t : State} (h : HostEffect s t) (ht : t.done = true) : s.done = true := by
  cases h with
  | nothing | reads | raises | writesFb | disarms | writesColor => exact ht
  | refuses a => cases a <;> exact ht
  | arms => cases ht
  | writesStatus v => exact (Bool.and_eq_true_iff.1 ht).1

theorem HostEffect.faultCount_eq {s t : State} (h : HostEffect s t) : t.faultCount = s.faultCount := by
  cases h with
  | refuses a => cases a <;> rfl
  | _ => rfl

/-- Settles O51: of all effects of a step only the sequencer's FRAME -> GAP step sets DONE. -/
theorem doneIsSetOnlyByAFrameCompleting : Obligations.DoneIsSetOnlyByAFrameCompleting := by
  intro s t h hs ht
  have unset : s.popEvent.done ≠ true := by simp [hs]
  cases step_cases h with
  | host a t he hx h => exact absurd (h.done_imp ht) unset
  | stuck => exact absurd ht unset
  | beats he hb => exact absurd ht unset
  | faults he hb => exact absurd ht unset
  | resets he => cases ht
  | sequences t he hq =>
    obtain ⟨ha, hh, ⟨-, rfl⟩ | ⟨hf, hx, hp, rfl⟩ | ⟨-, -, -, rfl⟩⟩ := State.sequencer_cases hq
    · exact absurd (State.faultStep_done _ ▸ ht) unset
    · simp only [State.popEvent_armed, State.popEvent_halted, State.popEvent_phase, State.popEvent_xcPend,
        State.popEvent_faultPend] at ha hh hp hx hf
      exact ⟨he, ha, hh, hp, hx, hf, rfl⟩
    · exact absurd ht unset

/-- Settles O52: a step that is no host access and no reset leaves DONE set, and of the accesses only two clear it. -/
theorem doneIsClearedOnlyByTheHost : Obligations.DoneIsClearedOnlyByTheHost := by
  intro s t h hs ht
  have isSet : s.popEvent.done ≠ false := by simp [hs]
  cases step_cases h with
  | stuck => exact absurd ht isSet
  | beats he hb => exact absurd ht isSet
  | faults he hb => exact absurd ht isSet
  | resets he => exact .inr (.inr he)
  | sequences t he hq =>
    obtain ⟨-, -, ⟨-, rfl⟩ | ⟨-, -, -, rfl⟩ | ⟨-, -, -, rfl⟩⟩ := State.sequencer_cases hq
    · exact absurd (State.faultStep_done _ ▸ ht) isSet
    · cases ht
    · exact absurd ht isSet
  | host a t he hx _ =>
    cases access_cases hx with
    | arms len ha => exact .inr (.inl ⟨len, he, by simpa using ha⟩)
    | disarms => exact absurd ht isSet
    | writesStatus v => exact .inl ⟨v, he, by simpa [hs] using ht⟩
    | quiet a t hk => exact absurd ((congrArg State.done hk).symm.trans ht) isSet

/-- Settles O55: a halted engine takes no beat and no sequencer step, it is armed and so refuses START, and no access
but STOP's clears HALTED. -/
theorem haltEndsOnlyByStopOrReset : Obligations.HaltEndsOnlyByStopOrReset := by
  intro s t hinv h hs ht
  have halted : s.popEvent.halted ≠ false := by simp [hs]
  cases step_cases h with
  | stuck => exact absurd ht halted
  | beats he hb => exact absurd ht halted
  | faults he hb => exact absurd ht halted
  | resets he => exact .inr he
  | sequences t he hq => exact absurd (State.sequencer_cases hq).2.1 halted
  | host a t he hx _ =>
    cases access_cases hx with
    | arms len ha =>
      have armed : s.armed = true := (hinv.haltedOnly hs).1
      simp [armed] at ha
    | disarms => exact .inl he
    | writesStatus v => exact absurd ht halted
    | quiet a t hk => exact absurd ((congrArg State.halted hk).symm.trans ht) halted

/-- Settles O56: of all effects of a step but a reset's only the fault step writes FAULT_COUNT. -/
theorem faultCountChangesOnlyByFaultSteps : Obligations.FaultCountChangesOnlyByFaultSteps := by
  intro s t h hne ht
  have kept : s.popEvent.faultCount = s.faultCount := s.popEvent_faultCount
  cases step_cases h with
  | host a t he hx h => exact absurd (h.faultCount_eq.trans kept) ht
  | stuck => exact absurd kept ht
  | beats he hb => exact absurd kept ht
  | faults he hb => exact absurd kept ht
  | resets he => exact absurd he hne
  | sequences t he hq =>
    obtain ⟨-, -, ⟨hf, rfl⟩ | ⟨-, -, -, rfl⟩ | ⟨-, -, -, rfl⟩⟩ := State.sequencer_cases hq
    · refine ⟨he, by simpa using hf, ?_⟩
      rw [State.faultStep_eq]
      simp [BitVec.toNat_add]
    · exact absurd kept ht
    · exact absurd kept ht

/-! ## The trace of phases (R180) -/

theorem alternating_succ (n : Nat) :
    alternating (n + 1) = alternating n ++ [if n % 2 = 0 then .frame else .gap] := by
  simp [alternating, List.range_succ]

/-- A trace that alternates still does with the phase that is next by its length. -/
theorem alternating_append {l : List Phase} (h : l = alternating l.length) {p : Phase}
    (hp : p = if l.length % 2 = 0 then .frame else .gap) :
    l ++ [p] = alternating (l ++ [p]).length := by
  rw [List.length_append, List.length_singleton, alternating_succ, ← h, hp]

/-- A trace that alternates ends in FRAME where its length is odd, in GAP where it is even. -/
theorem parity_of_alternating_getLast? {n : Nat} {p : Phase} (h : (alternating n).getLast? = some p) :
    p = .frame ↔ n % 2 = 1 := by
  cases n with
  | zero => cases h
  | succ n =>
    rw [alternating_succ, List.getLast?_concat, Option.some.injEq] at h
    subst h
    split
    next hn => exact ⟨fun _ => by omega, fun _ => rfl⟩
    next hn => exact ⟨nofun, fun _ => by omega⟩

/-! ## Each operation keeps the invariant -/

namespace State.Inv

/-- While armed, the parity of the trace's length is that of the phase (R180). -/
theorem trace_parity {s : State} (hs : s.Inv) (ha : s.armed = true) :
    s.phase = .frame ↔ s.phaseTrace.length % 2 = 1 :=
  parity_of_alternating_getLast? (hs.traceAlternates ▸ hs.traceEnds ha)

/-- A transfer not begun is not complete (R45 (vi)). -/
theorem xcPendIff_of_fresh {armed : Prop} {n : BitVec 16} : false = true ↔ armed ∧ 1 ≤ n.toNat ∧ 0#16 = n :=
  ⟨nofun, fun ⟨_, h1, h0⟩ => absurd (h0 ▸ h1) (by decide)⟩

theorem popEvent {s : State} (hs : s.Inv) : s.popEvent.Inv := by
  unfold State.popEvent
  split
  · exact { hs with }
  · exact { hs with }

theorem hostWriteFb {s : State} (hs : s.Inv) {i : Nat} {bytes : List Byte} (h : i + bytes.length ≤ s.cfg.fbLen) :
    (s.hostWriteFb i bytes).Inv :=
  { hs with
    fbWf := Memory.wf_storeList hs.fbWf i bytes
    fbInRange := fun c hc => (Memory.mem_storeList hc).elim (hs.fbInRange c) fun hi => by
      simp only [hostWriteFb_cfg]; omega }

theorem arm {s : State} (hs : s.Inv) {len : BitVec 16} (h1 : 1 ≤ len.toNat) (h2 : len.toNat ≤ s.cfg.fbLen) :
    (s.arm len).Inv where
  buildLegal := hs.buildLegal
  fbWf := Memory.wf_storeList hs.fbWf _ _
  fbInRange c hc := (Memory.mem_storeList hc).elim (hs.fbInRange c) fun hi => by
    simp only [List.length_replicate, arm_cfg] at hi ⊢; omega
  disarmed := nofun
  sourceOfPhase _ := by simp
  frameLength _ _ := rfl
  lenRange _ := ⟨h1, h2⟩
  gapLength _ := nofun
  posInRange := by simp
  xcPendIff := xcPendIff_of_fresh
  haltedOnly := nofun
  traceAlternates := rfl
  traceEnds _ := rfl
  doneSetsCount := by simp

theorem disarm {s : State} (hs : s.Inv) : s.disarm.Inv where
  buildLegal := hs.buildLegal
  fbWf := hs.fbWf
  fbInRange := hs.fbInRange
  disarmed _ := ⟨rfl, rfl, rfl, rfl, rfl⟩
  sourceOfPhase := nofun
  frameLength := nofun
  lenRange := nofun
  gapLength := nofun
  posInRange := by simp
  xcPendIff := xcPendIff_of_fresh
  haltedOnly := nofun
  traceAlternates := hs.traceAlternates
  traceEnds := nofun
  doneSetsCount := hs.doneSetsCount

/-- No host access but START and STOP writes what R45 speaks of, and a write of FB stays in FB. -/
theorem hostEffect {s t : State} (hs : s.Inv) (h : HostEffect s t) : t.Inv := by
  cases h with
  | nothing => exact hs
  | reads | raises | writesStatus | writesColor => exact { hs with }
  | refuses a => cases a <;> exact { hs with }
  | writesFb i bytes h => exact hs.hostWriteFb h
  | arms len ha h1 h2 => exact hs.arm h1 h2
  | disarms => exact hs.disarm

theorem moveByte {s : State} (hs : s.Inv) (hb : s.beatEnabled = true) (b : Byte) : (s.moveByte b).Inv := by
  obtain ⟨ha, hh, hx, hlt⟩ := s.beatEnabled_iff.1 hb
  have hpos := s.desc.pos_succ hlt
  exact { hs with
    disarmed := fun h => absurd (ha.symm.trans h) nofun
    posInRange := by simp only [moveByte_desc]; omega
    xcPendIff := by
      have nonempty : 1 ≤ s.desc.dlen.toNat := by omega
      simp [hx, ha, nonempty] }

theorem faultBeat {s : State} (hs : s.Inv) (hb : s.beatEnabled = true) (b : Byte) (n : Nat) :
    ({ s.moveByte b with faultPend := true, draws := n } : State).Inv := by
  obtain ⟨ha, hh, -, -⟩ := s.beatEnabled_iff.1 hb
  exact { hs.moveByte hb b with
    disarmed := fun h => absurd (ha.symm.trans h) nofun
    haltedOnly := fun h => absurd (hh.symm.trans h) nofun }

theorem faultStep {s : State} (hs : s.Inv) (ha : s.armed = true) (hh : s.halted = false) (hf : s.faultPend = true) :
    s.faultStep.Inv := by
  rw [s.faultStep_eq]
  exact { hs with
    disarmed := fun h => absurd (ha.symm.trans h) nofun
    haltedOnly := by simp [ha, hh, hf] }

theorem frameToGap {s : State} (hs : s.Inv) (ha : s.armed = true) (hp : s.phase = .frame) : s.frameToGap.Inv := by
  have odd : s.phaseTrace.length % 2 = 1 := (hs.trace_parity ha).1 hp
  exact { hs with
    disarmed := fun h => absurd (ha.symm.trans h) nofun
    sourceOfPhase := by simp
    frameLength := nofun
    gapLength := fun _ _ => rfl
    posInRange := by simp
    xcPendIff := xcPendIff_of_fresh
    traceAlternates := alternating_append hs.traceAlternates (by simp [odd])
    traceEnds := by simp
    doneSetsCount := by
      simp only [frameToGap_doneSets, frameToGap_phaseTrace, List.length_append, List.length_singleton, hs.doneSetsCount]
      omega }

theorem gapToFrame {s : State} (hs : s.Inv) (ha : s.armed = true) (hp : s.phase = .gap) : s.gapToFrame.Inv := by
  have even : s.phaseTrace.length % 2 = 0 := by simpa [hp] using hs.trace_parity ha
  exact { hs with
    disarmed := fun h => absurd (ha.symm.trans h) nofun
    sourceOfPhase := by simp
    frameLength := fun _ _ => rfl
    gapLength := nofun
    posInRange := by simp
    xcPendIff := xcPendIff_of_fresh
    traceAlternates := alternating_append hs.traceAlternates (by simp [even])
    traceEnds := by simp
    doneSetsCount := by
      simp only [gapToFrame_doneSets, gapToFrame_phaseTrace, List.length_append, List.length_singleton, hs.doneSetsCount]
      omega }

theorem sequencer {s t : State} (hs : s.Inv) (h : s.sequencer = some t) : t.Inv := by
  obtain ⟨ha, hh, ⟨hf, rfl⟩ | ⟨-, -, hp, rfl⟩ | ⟨-, -, hp, rfl⟩⟩ := sequencer_cases h
  · exact hs.faultStep ha hh hf
  · exact hs.frameToGap ha hp
  · exact hs.gapToFrame ha hp

end State.Inv

/-- Settles O49. -/
theorem resetMeetsTheInvariant : Obligations.ResetMeetsTheInvariant where
  buildLegal := Config.build_legal
  fbWf := rfl
  fbInRange := nofun
  disarmed _ := ⟨rfl, rfl, rfl, rfl, rfl⟩
  sourceOfPhase := nofun
  frameLength := nofun
  lenRange := nofun
  gapLength := nofun
  posInRange := Nat.le_refl 0
  xcPendIff := ⟨nofun, nofun⟩
  haltedOnly := nofun
  traceAlternates := rfl
  traceEnds := nofun
  doneSetsCount := rfl

/-- A reset event keeps the build, and every other field the invariant speaks of is that of `State.reset`. -/
theorem State.Inv.platformReset {s : State} (hs : s.Inv) : s.platformReset.Inv :=
  { resetMeetsTheInvariant with
    buildLegal := hs.buildLegal
    fbInRange := nofun
    lenRange := nofun
    gapLength := nofun
    haltedOnly := nofun }

/-- Settles O50: taking the event up keeps the invariant, and so does each effect the event can have. -/
theorem everyStepKeepsTheInvariant : Obligations.EveryStepKeepsTheInvariant := by
  intro s t hs h
  have hpop := hs.popEvent
  cases step_cases h with
  | host a t he hx h => exact hpop.hostEffect h
  | stuck => exact hpop
  | beats he hb => exact hpop.moveByte hb _
  | faults he hb => exact hpop.faultBeat hb _ _
  | sequences t he hq => exact hpop.sequencer hq
  | resets he => exact hpop.platformReset

end Sys2Proof.Machine

/-! ## The host access as a step, and the two ways an access ends: accepted or refused (R76 to R79, R200) -/

namespace Sys2Proof

/-- Of the branches of R200's dispatch, the two that go on to a register or to FB are those of an accepted access. -/
theorem decodeAccess_of_not_accepted {L : Nat} {a : Access} (h : ¬ a.Accepted L) : decodeAccess L a = .accessFault a := by
  obtain ⟨hreg, hwin⟩ := not_or.1 h
  unfold decodeAccess
  split
  next hlow =>
    refine if_neg fun ⟨hw, h4⟩ => hreg ⟨hw, ?_, h4⟩
    exact Nat.lt_of_le_of_lt hlow (by decide)
  next =>
    split
    next hin =>
      obtain ⟨hlo, hhi⟩ := (inFbWindow_iff ..).1 hin
      exact if_neg fun hal => hwin ⟨hlo, hhi, (isAligned_iff ..).1 hal⟩
    next => rfl

end Sys2Proof

namespace Sys2Proof.Machine

/-- A step at a host access of the agenda. -/
theorem step_host {s : State} {a : Access} {rest : List Event} (ha : s.agenda = .host a :: rest) :
    step s = exec (decodeAccess s.cfg.fbLen a) { s with agenda := rest } := by
  unfold step
  rw [s.nextEvent_cons _ _ ha, s.popEvent_cons _ _ ha]
  rfl

/-- Settles O5. -/
theorem stepRunsDecodedAccess : Obligations.StepRunsDecodedAccess :=
  fun _ _ _ ha => step_host ha

theorem exec_accessFault_read (s : State) (o : Offset) (n : Width) :
    exec (.accessFault (.read o n)) s = .next { s with err := s.err.record .access 0 o, rdata := 0 } := rfl

theorem exec_accessFault_write (s : State) (o : Offset) (n : Width) (v : Word) :
    exec (.accessFault (.write o n v)) s = .next { s with err := s.err.record .access 0 o } := rfl

/-- Settles O12: the dispatch has no other branch for a refused access, and ACCESS_FAULT answers by the direction. -/
theorem refusedAccessRaisesAccessError : Obligations.RefusedAccessRaisesAccessError := by
  intro a s
  refine ⟨decodeAccess_of_not_accepted, ?_, ?_⟩
  · rintro o n rfl
    exact exec_accessFault_read s o n
  · rintro o n v rfl
    exact exec_accessFault_write s o n v

/-- A read of any of the eight registers only returns a value. -/
theorem exec_read_register (s : State) {o : Offset} (n : Width) (h : o.toNat < 0x20) (h4 : o.toNat % 4 = 0) :
    ∃ v, exec (decodeRegister (.read o n)) s = .next (s.setRdata v) := by
  rcases register_offset_cases o h h4 with rfl | rfl | rfl | rfl | rfl | rfl | rfl | rfl
  all_goals exact ⟨_, rfl⟩

/-- A read of the FB window only returns a value. -/
theorem exec_rdFb (s : State) {o : Offset} {n : Width} (h : InFbWindow s.cfg.fbLen o n.bytes) :
    exec (.rdFb o n) s = .next (s.setRdata (loadLE s.fbByte (fbIndex o) n.bytes)) :=
  congrArg Host.Outcome.next (if_pos ((s.fbAccepts_iff o n).2 h))

/-- An accepted read only returns a value, whether it goes to a register or to FB. -/
theorem exec_accepted_read {s : State} {o : Offset} {n : Width} (h : (Access.read o n).Accepted s.cfg.fbLen) :
    ∃ v, exec (decodeAccess s.cfg.fbLen (.read o n)) s = .next (s.setRdata v) := by
  rcases h with hreg | hwin
  · rw [decodeAccess_of_toRegister _ _ hreg]
    obtain ⟨-, hlow, h4⟩ := hreg
    exact exec_read_register s n hlow h4
  · rw [decodeAccess_of_inFbWindow _ _ hwin]
    exact ⟨_, exec_rdFb s hwin⟩

/-- Settles O35: an accepted read only returns a value, a refused one is ACCESS_FAULT. -/
theorem readsHaveNoSideEffect : Obligations.ReadsHaveNoSideEffect := by
  intro s o n
  by_cases h : (Access.read o n).Accepted s.cfg.fbLen
  · obtain ⟨v, hv⟩ := exec_accepted_read h
    exact ⟨_, hv, fun _ => rfl, fun hn => absurd h hn⟩
  · rw [decodeAccess_of_not_accepted h]
    exact ⟨_, exec_accessFault_read s o n, fun ha => absurd ha h, fun _ => rfl⟩

end Sys2Proof.Machine

/-! ## The layouts of a command word, and the row of R104 it is in (R101 to R106) -/

namespace Sys2Proof

/-- A field of a field is a field of the whole. -/
theorem extractLsb'_field {n start len start' len' : Nat} (w : BitVec n) (h : start + len ≤ len') :
    (w.extractLsb' start' len').extractLsb' start len = w.extractLsb' (start' + start) len := by
  ext i hi
  have inside : start + i < len' := by omega
  simp [inside, Nat.add_assoc]

/-- A word is put together from two fields iff it has them at their places. -/
theorem eq_append_iff {k m : Nat} (w : BitVec (k + m)) (a : BitVec k) (b : BitVec m) :
    w = a ++ b ↔ w.extractLsb' m k = a ∧ w.extractLsb' 0 m = b := by
  constructor
  · rintro rfl
    exact ⟨BitVec.extractLsb'_append_eq_left, BitVec.extractLsb'_append_eq_right⟩
  · rintro ⟨rfl, rfl⟩
    exact BitVec.extractLsb'_append_extractLsb'.symm

theorem eq_append_append_iff {k m n : Nat} (w : BitVec (k + m + n)) (a : BitVec k) (b : BitVec m) (c : BitVec n) :
    w = a ++ b ++ c ↔ w.extractLsb' (n + m) k = a ∧ w.extractLsb' n m = b ∧ w.extractLsb' 0 n = c := by
  rw [eq_append_iff, eq_append_iff, extractLsb'_field w (by omega), extractLsb'_field w (by omega), Nat.add_zero,
    and_assoc]

/-- R104's match and mask say the fixed field at the top of a word. -/
theorem and_mask_eq_iff {k m : Nat} (w : BitVec (k + m)) (a : BitVec k) :
    w &&& (BitVec.allOnes k ++ 0#m) = a ++ 0#m ↔ w.extractLsb' m k = a := by
  have masked : w &&& (BitVec.allOnes k ++ 0#m) = w.extractLsb' m k ++ 0#m := by
    conv_lhs => rw [← BitVec.extractLsb'_append_extractLsb' (x := w)]
    rw [BitVec.and_append, BitVec.and_allOnes, BitVec.and_zero]
  rw [masked, BitVec.append_left_inj]

/-- A row of R104 with one operand: its match and mask, and the operand as the rest of the word. -/
theorem eq_append_iff_masked {k m : Nat} (w : BitVec (k + m)) (a : BitVec k) (b : BitVec m) :
    w = a ++ b ↔ w &&& (BitVec.allOnes k ++ 0#m) = a ++ 0#m ∧ b = w.extractLsb' 0 m := by
  rw [eq_append_iff, and_mask_eq_iff, eq_comm (a := b)]

/-- The layout of NOP and of STOP (R101, R102). -/
theorem eq_imm28Word_iff (w : Word) (op : BitVec 4) (f : BitVec 28) :
    w = op ++ f ↔ w.extractLsb' 28 4 = op ∧ w.extractLsb' 0 28 = f :=
  eq_append_iff (k := 4) (m := 28) w op f

/-- The layout of START, ENC_LED and ENC_STRIP, whose bits 27:16 are reserved (R101, R102). -/
theorem eq_imm16Word_iff (w : Word) (op : BitVec 4) (f : BitVec 16) :
    w = op ++ 0#12 ++ f ↔ w.extractLsb' 28 4 = op ∧ w.extractLsb' 16 12 = 0#12 ∧ w.extractLsb' 0 16 = f :=
  eq_append_append_iff (k := 4) (m := 12) (n := 16) w op 0#12 f

/-- The layout of ENC_CH, whose bits 27:24 are reserved (R101, R102). -/
theorem eq_encChWord_iff (w : Word) (offset : BitVec 16) (value : Byte) :
    w = 0x3#4 ++ 0#4 ++ offset ++ value ↔
      w.extractLsb' 24 8 = 0x3#4 ++ 0#4 ∧ w.extractLsb' 8 16 = offset ∧ w.extractLsb' 0 8 = value :=
  eq_append_append_iff (k := 8) (m := 16) (n := 8) w (0x3#4 ++ 0#4) offset value

theorem encChHigh_iff (w : Word) :
    w.extractLsb' 24 8 = 0x3#4 ++ 0#4 ↔ w.extractLsb' 28 4 = 0x3#4 ∧ w.extractLsb' 24 4 = 0#4 := by
  have fields := eq_append_iff (k := 4) (m := 4) (w.extractLsb' 24 8) 0x3#4 0#4
  rwa [extractLsb'_field w (by decide), extractLsb'_field w (by decide)] at fields

theorem opcode_cases : ∀ op : BitVec 4,
    op = 0x0#4 ∨ op = 0x1#4 ∨ op = 0x2#4 ∨ op = 0x3#4 ∨ op = 0x4#4 ∨ op = 0x5#4 ∨ (op = 0x6#4 ∨ op = 0x7#4) ∨
      8 ≤ op.toNat := by
  decide

/-- A word is in one of the rows of R104: those of the six commands, of R106, and of the reserved opcodes (R105). -/
inductive CommandRow (w : Word) : Prop where
  | nop (hop : w.extractLsb' 28 4 = 0x0#4)
  | start (hop : w.extractLsb' 28 4 = 0x1#4) (hrsv : w.extractLsb' 16 12 = 0#12)
  | stop (hop : w.extractLsb' 28 4 = 0x2#4) (hrsv : w.extractLsb' 0 28 = 0#28)
  | encCh (hop : w.extractLsb' 28 4 = 0x3#4) (hrsv : w.extractLsb' 24 4 = 0#4)
  | encLed (hop : w.extractLsb' 28 4 = 0x4#4) (hrsv : w.extractLsb' 16 12 = 0#12)
  | encStrip (hop : w.extractLsb' 28 4 = 0x5#4) (hrsv : w.extractLsb' 16 12 = 0#12)
  | reservedBits (h : HasReservedBitSet w)
  | op67 (hop : w.extractLsb' 28 4 = 0x6#4 ∨ w.extractLsb' 28 4 = 0x7#4)
  | op8F (hop : 8 ≤ (w.extractLsb' 28 4).toNat)

theorem commandRow (w : Word) : CommandRow w := by
  by_cases hr : HasReservedBitSet w
  · exact .reservedBits hr
  simp only [HasReservedBitSet, not_or, not_and_not_right] at hr
  obtain ⟨h1, h2, h3, h4, h5⟩ := hr
  obtain h | h | h | h | h | h | h | h := opcode_cases (w.extractLsb' 28 4)
  · exact .nop h
  · exact .start h (h1 h)
  · exact .stop h (h2 h)
  · exact .encCh h (h3 h)
  · exact .encLed h (h4 h)
  · exact .encStrip h (h5 h)
  · exact .op67 h
  · exact .op8F h

/-- The high bits that tell OP 0x6 and 0x7, as R104's mask takes them. -/
theorem op67_iff (w : Word) :
    w.extractLsb' 29 3 = 0b011#3 ↔ w.extractLsb' 28 4 = 0x6#4 ∨ w.extractLsb' 28 4 = 0x7#4 := by
  have bits : ∀ op : BitVec 4, op.extractLsb' 1 3 = 0b011#3 ↔ op = 0x6#4 ∨ op = 0x7#4 := by decide
  rw [← bits, extractLsb'_field w (by decide)]

/-- The high bit that tells OP 0x8 to 0xF, as R104's mask takes it. -/
theorem op8F_iff (w : Word) : w.extractLsb' 31 1 = 0b1#1 ↔ 8 ≤ (w.extractLsb' 28 4).toNat := by
  have bits : ∀ op : BitVec 4, op.extractLsb' 3 1 = 0b1#1 ↔ 8 ≤ op.toNat := by decide
  rw [← bits, extractLsb'_field w (by decide)]

/-! ## What the word of each row decodes to (R108) -/

section
variable {w : Word}

theorem decodeCommand_nop (hop : w.extractLsb' 28 4 = 0x0#4) : decodeCommand w = .nop (w.extractLsb' 0 28) := by
  simp [decodeCommand, caseCommand, hop]

theorem decodeCommand_start (hop : w.extractLsb' 28 4 = 0x1#4) (hrsv : w.extractLsb' 16 12 = 0#12) :
    decodeCommand w = .start (w.extractLsb' 0 16) := by
  simp [decodeCommand, caseCommand, hop, hrsv]

theorem decodeCommand_stop (hop : w.extractLsb' 28 4 = 0x2#4) (hrsv : w.extractLsb' 0 28 = 0#28) :
    decodeCommand w = .stop := by
  simp [decodeCommand, caseCommand, hop, hrsv]

theorem decodeCommand_encCh (hop : w.extractLsb' 28 4 = 0x3#4) (hrsv : w.extractLsb' 24 4 = 0#4) :
    decodeCommand w = .encCh (w.extractLsb' 8 16) (w.extractLsb' 0 8) := by
  simp [decodeCommand, caseCommand, hop, hrsv]

theorem decodeCommand_encLed (hop : w.extractLsb' 28 4 = 0x4#4) (hrsv : w.extractLsb' 16 12 = 0#12) :
    decodeCommand w = .encLed (w.extractLsb' 0 16) := by
  simp [decodeCommand, caseCommand, hop, hrsv]

theorem decodeCommand_encStrip (hop : w.extractLsb' 28 4 = 0x5#4) (hrsv : w.extractLsb' 16 12 = 0#12) :
    decodeCommand w = .encStrip (w.extractLsb' 0 16) := by
  simp [decodeCommand, caseCommand, hop, hrsv]

theorem decodeCommand_reservedBits (h : HasReservedBitSet w) : decodeCommand w = .illegalReservedBits w := by
  rcases h with ⟨hop, hrsv⟩ | ⟨hop, hrsv⟩ | ⟨hop, hrsv⟩ | ⟨hop, hrsv⟩ | ⟨hop, hrsv⟩
  all_goals simp [decodeCommand, caseCommand, hop, hrsv]

theorem decodeCommand_op67 (hop : w.extractLsb' 28 4 = 0x6#4 ∨ w.extractLsb' 28 4 = 0x7#4) :
    decodeCommand w = .illegalOp67 w := by
  rcases hop with hop | hop
  all_goals simp [decodeCommand, caseCommand, hop]

theorem decodeCommand_op8F (hop : 8 ≤ (w.extractLsb' 28 4).toNat) : decodeCommand w = .illegalOp8F w := by
  have other : ∀ op : BitVec 4, 8 ≤ op.toNat → op ≠ 0x0#4 ∧ op ≠ 0x1#4 ∧ op ≠ 0x2#4 ∧ op ≠ 0x3#4 ∧ op ≠ 0x4#4 ∧
      op ≠ 0x5#4 ∧ op ≠ 0x6#4 ∧ op ≠ 0x7#4 := by decide
  simp [decodeCommand, caseCommand, other _ hop]

end

/-- A 32-bit write at a register's offset, whatever its value. -/
theorem decodeAccess_write_register (L : Nat) (o : Offset) (v : Word) (h : o.toNat < 0x20 ∧ o.toNat % 4 = 0) :
    decodeAccess L (.write o .word v) = decodeRegister (.write o .word v) :=
  decodeAccess_of_toRegister L _ ⟨rfl, h⟩

/-! ## Decoder and encoder are inverse to each other (R108, R109, R200) -/

/-- Decoding a word with a 16-bit operand, for the three commands that have one. -/
theorem decodeCommand_imm16 {i : BitVec 16 → Instr} {op : BitVec 4}
    (h : ∀ w : Word, w.extractLsb' 28 4 = op → w.extractLsb' 16 12 = 0#12 → decodeCommand w = i (w.extractLsb' 0 16))
    (f : BitVec 16) : decodeCommand (op ++ 0#12 ++ f) = i f := by
  obtain ⟨hop, hrsv, hf⟩ := (eq_imm16Word_iff _ op f).1 rfl
  exact (h _ hop hrsv).trans (congrArg i hf)

/-- What decoding a code gives is well-formed and is encoded by that code. -/
def DecodesBack (L : Nat) (c : Code) : Prop :=
  WellFormed L (decode L c) = true ∧ encode (decode L c) = c

theorem decodesBack_of_eq {L : Nat} {c : Code} {i : Instr} (h : decode L c = i) (hwf : WellFormed L i = true)
    (henc : encode i = c) : DecodesBack L c := by
  subst h
  exact ⟨hwf, henc⟩

/-- Where a word decodes to an instruction, it is enough that it is the word that encodes the instruction. -/
theorem decodesBack_of_word {L : Nat} {w u : Word} {i : Instr} (h : decodeCommand w = i) (hwf : WellFormed L i = true)
    (henc : encode i = .command u) (hu : w = u) : DecodesBack L (.command w) :=
  decodesBack_of_eq h hwf (hu ▸ henc)

theorem decodesBack_command (L : Nat) (w : Word) : DecodesBack L (.command w) := by
  cases commandRow w with
  | nop hop =>
    exact decodesBack_of_word (decodeCommand_nop hop) rfl rfl ((eq_imm28Word_iff w _ _).2 ⟨hop, rfl⟩)
  | start hop hrsv =>
    exact decodesBack_of_word (decodeCommand_start hop hrsv) rfl rfl ((eq_imm16Word_iff w _ _).2 ⟨hop, hrsv, rfl⟩)
  | stop hop hrsv =>
    exact decodesBack_of_word (decodeCommand_stop hop hrsv) rfl rfl ((eq_imm28Word_iff w _ _).2 ⟨hop, hrsv⟩)
  | encCh hop hrsv =>
    have high := (encChHigh_iff w).2 ⟨hop, hrsv⟩
    exact decodesBack_of_word (decodeCommand_encCh hop hrsv) rfl rfl ((eq_encChWord_iff w _ _).2 ⟨high, rfl, rfl⟩)
  | encLed hop hrsv =>
    exact decodesBack_of_word (decodeCommand_encLed hop hrsv) rfl rfl ((eq_imm16Word_iff w _ _).2 ⟨hop, hrsv, rfl⟩)
  | encStrip hop hrsv =>
    exact decodesBack_of_word (decodeCommand_encStrip hop hrsv) rfl rfl ((eq_imm16Word_iff w _ _).2 ⟨hop, hrsv, rfl⟩)
  | reservedBits h => exact decodesBack_of_word (decodeCommand_reservedBits h) (decide_eq_true h) rfl rfl
  | op67 hop => exact decodesBack_of_word (decodeCommand_op67 hop) (decide_eq_true ((op67_iff w).2 hop)) rfl rfl
  | op8F hop => exact decodesBack_of_word (decodeCommand_op8F hop) (decide_eq_true ((op8F_iff w).2 hop)) rfl rfl

theorem decodesBack_register (L : Nat) {a : Access} (h : a.ToRegister) : DecodesBack L (.access a) := by
  have hd : decode L (.access a) = decodeRegister a := decodeAccess_of_toRegister L a h
  obtain ⟨hw, hlow, h4⟩ := h
  cases a with
  | read o n =>
    obtain rfl : n = .word := hw
    obtain rfl | rfl | rfl | rfl | rfl | rfl | rfl | rfl := register_offset_cases o hlow h4
    all_goals exact decodesBack_of_eq hd rfl rfl
  | write o n v =>
    obtain rfl : n = .word := hw
    obtain rfl | rfl | rfl | rfl | rfl | rfl | rfl | rfl := register_offset_cases o hlow h4
    all_goals exact decodesBack_of_eq hd rfl rfl

theorem decodesBack_fb {L : Nat} {a : Access} (h : InFbWindow L a.off a.width.bytes) : DecodesBack L (.access a) := by
  have hd : decode L (.access a) = decodeFb a := decodeAccess_of_inFbWindow L a h
  cases a with
  | read o n => exact decodesBack_of_eq hd (decide_eq_true h) rfl
  | write o n v => exact decodesBack_of_eq hd (decide_eq_true h) rfl

theorem decodesBack (L : Nat) (c : Code) : DecodesBack L c := by
  cases c with
  | command w => exact decodesBack_command L w
  | access a =>
    by_cases h : a.Accepted L
    · obtain hreg | hwin := h
      · exact decodesBack_register L hreg
      · exact decodesBack_fb hwin
    · exact decodesBack_of_eq (decodeAccess_of_not_accepted h) (decide_eq_true h) rfl

/-- Settles O2: a word by the row of R104 it is in, an access by where R200's dispatch sends it. -/
theorem encodeOfDecodeIsIdentity : Obligations.EncodeOfDecodeIsIdentity :=
  decodesBack

/-- Settles O1: the fields of a command's word are its operands, and an access goes back to its own row. -/
theorem decodeOfEncodeIsIdentity : Obligations.DecodeOfEncodeIsIdentity := by
  intro L i hwf
  cases i with
  | nop hint =>
    obtain ⟨hop, hh⟩ := (eq_imm28Word_iff _ 0x0#4 hint).1 rfl
    exact (decodeCommand_nop hop).trans (congrArg Instr.nop hh)
  | start len => exact decodeCommand_imm16 (fun _ => decodeCommand_start) len
  | stop => rfl
  | encCh offset value =>
    obtain ⟨hhigh, ho, hv⟩ := (eq_encChWord_iff _ offset value).1 rfl
    obtain ⟨hop, hrsv⟩ := (encChHigh_iff _).1 hhigh
    exact (decodeCommand_encCh hop hrsv).trans (congrArg₂ Instr.encCh ho hv)
  | encLed offset => exact decodeCommand_imm16 (fun _ => decodeCommand_encLed) offset
  | encStrip ledIdx => exact decodeCommand_imm16 (fun _ => decodeCommand_encStrip) ledIdx
  | illegalOp67 w => exact decodeCommand_op67 ((op67_iff w).1 (of_decide_eq_true hwf))
  | illegalOp8F w => exact decodeCommand_op8F ((op8F_iff w).1 (of_decide_eq_true hwf))
  | illegalReservedBits w => exact decodeCommand_reservedBits (of_decide_eq_true hwf)
  | rdFb o n => exact decodeAccess_of_inFbWindow L (.read o n) (of_decide_eq_true hwf)
  | wrFb o n v => exact decodeAccess_of_inFbWindow L (.write o n v) (of_decide_eq_true hwf)
  | accessFault a => exact decodeAccess_of_not_accepted (of_decide_eq_true hwf)
  | rdCmd | rdStatus | rdColor | rdLen | rdFaultCount | rdErr | rdConfig | rdPatterns => rfl
  | wrCmd | wrStatus | wrColor | wrLen | wrFaultCount | wrErr | wrConfig | wrPatterns =>
    exact decodeAccess_write_register L _ _ (by decide)

/-- Decoder and encoder are inverse to each other on the well-formed instructions. -/
theorem decode_eq_iff {L : Nat} {i : Instr} (hwf : WellFormed L i = true) (c : Code) :
    decode L c = i ↔ c = encode i := by
  constructor
  · rintro rfl
    exact (encodeOfDecodeIsIdentity L c).2.symm
  · rintro rfl
    exact decodeOfEncodeIsIdentity L i hwf

/-- A command's word is the only one that decodes to the command. -/
theorem decodeCommand_eq_iff {i : Instr} {u : Word} (hwf : WellFormed 0 i = true) (henc : encode i = .command u)
    (w : Word) : decodeCommand w = i ↔ w = u := by
  rw [← Code.command.injEq, ← henc]
  exact decode_eq_iff hwf (.command w)

theorem decodeCommand_of_reservedOp {w : Word} (h : 6 ≤ (w.extractLsb' 28 4).toNat) :
    decodeCommand w = .illegalOp67 w ∨ decodeCommand w = .illegalOp8F w := by
  have rows : ∀ op : BitVec 4, 6 ≤ op.toNat → (op = 0x6#4 ∨ op = 0x7#4) ∨ 8 ≤ op.toNat := by decide
  exact (rows _ h).imp decodeCommand_op67 decodeCommand_op8F

/-- The reserved opcodes, by what their words decode to (R105). -/
theorem decodeCommand_illegalOp_iff (w : Word) :
    (∃ u, decodeCommand w = .illegalOp67 u ∨ decodeCommand w = .illegalOp8F u) ↔ 6 ≤ (w.extractLsb' 28 4).toNat := by
  have back {i : Instr} (h : decodeCommand w = i) : WellFormed 0 i = true ∧ encode i = .command w :=
    h ▸ encodeOfDecodeIsIdentity 0 (.command w)
  constructor
  · rintro ⟨u, h | h⟩
    · obtain ⟨hwf, henc⟩ := back h
      cases henc
      obtain hop | hop := (op67_iff w).1 (of_decide_eq_true hwf)
      all_goals rw [hop]; decide
    · obtain ⟨hwf, henc⟩ := back h
      cases henc
      exact Nat.le_trans (by decide) ((op8F_iff w).1 (of_decide_eq_true hwf))
  · exact fun h => ⟨w, decodeCommand_of_reservedOp h⟩

/-- Settles O3: a word decodes to a command iff it is the command's word, which match and mask and fields say. -/
theorem commandsDecodeByMatchAndMask : Obligations.CommandsDecodeByMatchAndMask := by
  intro w
  refine ⟨fun h => ?_, fun n => ?_, ?_, fun o v => ?_, fun o => ?_, fun k => ?_, decodeCommand_illegalOp_iff w⟩
  · exact (decodeCommand_eq_iff rfl rfl w).trans (eq_append_iff_masked (k := 4) (m := 28) w 0x0#4 h)
  · exact (decodeCommand_eq_iff rfl rfl w).trans (eq_append_iff_masked (k := 16) (m := 16) w 0x1000#16 n)
  · exact decodeCommand_eq_iff rfl rfl w
  · rw [decodeCommand_eq_iff rfl rfl w, eq_encChWord_iff, ← and_mask_eq_iff (k := 8) (m := 24) w, eq_comm (a := o),
      eq_comm (a := v)]
    rfl
  · exact (decodeCommand_eq_iff rfl rfl w).trans (eq_append_iff_masked (k := 16) (m := 16) w 0x4000#16 o)
  · exact (decodeCommand_eq_iff rfl rfl w).trans (eq_append_iff_masked (k := 16) (m := 16) w 0x5000#16 k)

end Sys2Proof

namespace Sys2Proof.Machine

/-- The access that brings a code to the core runs what the code decodes to, a command by way of WR.CMD (R100, R202). -/
theorem exec_toAccess (L : Nat) (c : Code) (s : State) : exec (decodeAccess L c.toAccess) s = exec (decode L c) s := by
  cases c with
  | command w =>
    have hd : decodeAccess L (Code.command w).toAccess = .wrCmd w := decodeAccess_write_register L 0x00 w (by decide)
    rw [hd]
    exact exec_wrCmd w s
  | access a => rfl

/-- Settles O6: the access runs what the encoding decodes to, which is the instruction. -/
theorem stepRunsIssuedInstruction : Obligations.StepRunsIssuedInstruction := by
  intro s i rest hwf ha
  rw [step_host ha, exec_toAccess, decodeOfEncodeIsIdentity _ i hwf]

/-- Settles O9: such a word is in a row of an ILLEGAL instruction, and WR.CMD runs that. -/
theorem illegalWordsRaiseIllegal : Obligations.IllegalWordsRaiseIllegal := by
  intro w s
  refine ⟨_, rfl, ?_, rfl, rfl, rfl⟩
  rw [exec_wrCmd]
  rintro (hop | hr)
  · obtain h | h := decodeCommand_of_reservedOp hop
    all_goals rw [h]; rfl
  · rw [decodeCommand_reservedBits hr]
    rfl

/-- Settles O21: the word decodes to NOP by its OP alone. -/
theorem nopDoesNothing : Obligations.NopDoesNothing := by
  have nop (h : BitVec 28) (s : State) : exec (.nop h) s = .next s := rfl
  refine ⟨nop, fun w s hop => ?_⟩
  rw [exec_wrCmd, decodeCommand_nop hop, nop]

/-- Settles O4: closed codes, which the decoder computes. -/
theorem specCodesDecode : Obligations.SpecCodesDecode := by
  unfold Obligations.SpecCodesDecode
  decide

/-! ## The assembler's words (R110, R111) -/

theorem operand_of_lt {w n : Nat} (h : n < 2 ^ w) : operand w n = some (BitVec.ofNat w n) := if_pos h

theorem operand_of_le {w n : Nat} (h : 2 ^ w ≤ n) : operand w n = none := if_neg (Nat.not_lt.2 h)

/-- Two fields, written as numbers, are one number, where the lower one fits. -/
theorem ofNat_append_ofNat (k a : Nat) {m b : Nat} (h : b < 2 ^ m) :
    BitVec.ofNat k a ++ BitVec.ofNat m b = BitVec.ofNat (k + m) (a * 2 ^ m + b) := by
  apply BitVec.eq_of_toNat_eq
  have high : (a * 2 ^ m + b) / 2 ^ m = a := by
    rw [Nat.mul_comm, Nat.mul_add_div (Nat.two_pow_pos m), Nat.div_eq_of_lt h, Nat.add_zero]
  have low : (a * 2 ^ m + b) % 2 ^ m = b := by rw [Nat.mul_add_mod_self_right, Nat.mod_eq_of_lt h]
  rw [BitVec.toNat_append, BitVec.toNat_ofNat, BitVec.toNat_ofNat, BitVec.toNat_ofNat, Nat.mod_eq_of_lt h,
    ← Nat.shiftLeft_add_eq_or_of_lt h, Nat.shiftLeft_eq, Nat.add_comm k, Nat.pow_add, Nat.mod_mul, high, low]
  ring

theorem imm16Word_ofNat (op : Nat) {n : Nat} (h : n < 2 ^ 16) :
    BitVec.ofNat 4 op ++ 0#12 ++ BitVec.ofNat 16 n = BitVec.ofNat 32 (op * 0x10000000 + n) := by
  rw [ofNat_append_ofNat 4 op (by decide), ofNat_append_ofNat _ _ h]
  exact congrArg (BitVec.ofNat 32) (by omega)

theorem encChWord_ofNat {o v : Nat} (ho : o < 2 ^ 16) (hv : v < 2 ^ 8) :
    0x3#4 ++ 0#4 ++ BitVec.ofNat 16 o ++ BitVec.ofNat 8 v = BitVec.ofNat 32 (0x30000000 + o * 2 ^ 8 + v) := by
  rw [ofNat_append_ofNat 4 3 (by decide), ofNat_append_ofNat _ _ ho, ofNat_append_ofNat _ _ hv]
  exact congrArg (BitVec.ofNat 32) (by omega)

theorem colorWord_ofNat {g r b : Nat} (hg : g < 2 ^ 8) (hr : r < 2 ^ 8) (hb : b < 2 ^ 8) :
    0#8 ++ BitVec.ofNat 8 g ++ BitVec.ofNat 8 r ++ BitVec.ofNat 8 b =
      BitVec.ofNat 32 (g * 2 ^ 16 + r * 2 ^ 8 + b) := by
  rw [ofNat_append_ofNat 8 0 hg, ofNat_append_ofNat _ _ hr, ofNat_append_ofNat _ _ hb]
  exact congrArg (BitVec.ofNat 32) (by omega)

/-- The word of a command with a 16-bit operand, as the assembler gives it. -/
theorem commandAccess_imm16 {i : BitVec 16 → Instr} (op : Nat)
    (henc : ∀ x, encode (i x) = .command (BitVec.ofNat 4 op ++ 0#12 ++ x)) {n : Nat} (h : n < 2 ^ 16) :
    commandAccess (i (BitVec.ofNat 16 n)) = .write 0x0000 .word (BitVec.ofNat 32 (op * 0x10000000 + n)) := by
  rw [commandAccess, henc, imm16Word_ofNat op h]
  rfl

theorem commandAccess_encCh {o v : Nat} (ho : o < 2 ^ 16) (hv : v < 2 ^ 8) :
    commandAccess (.encCh (BitVec.ofNat 16 o) (BitVec.ofNat 8 v)) =
      .write 0x0000 .word (BitVec.ofNat 32 (0x30000000 + o * 2 ^ 8 + v)) :=
  congrArg (Access.write 0x0000 .word) (encChWord_ofNat ho hv)

theorem assembleSetcolor_of_lt {g r b : Nat} (hg : g < 2 ^ 8) (hr : r < 2 ^ 8) (hb : b < 2 ^ 8) :
    assembleSetcolor g r b = some (.write 0x0008 .word (BitVec.ofNat 32 (g * 2 ^ 16 + r * 2 ^ 8 + b))) := by
  rw [assembleSetcolor, operand_of_lt hg, operand_of_lt hr, operand_of_lt hb]
  exact congrArg (fun v => some (Access.write 0x0008 .word v)) (colorWord_ofNat hg hr hb)

/-- Settles O60: an operand is a field of its width or none, and a field joins the fields above it as a number does. -/
theorem assemblerGivesTheWords : Obligations.AssemblerGivesTheWords := by
  refine ⟨fun n hn => ?_, fun o v ho hv => ?_, fun n hn => ?_, fun o v h => ?_, fun k g r b hk hg hr hb => ?_⟩
  · have fits : n < 2 ^ 16 := Nat.lt_succ_of_le hn
    have start := commandAccess_imm16 (i := .start) 0x1 (fun _ => rfl) fits
    have encLed := commandAccess_imm16 (i := .encLed) 0x4 (fun _ => rfl) fits
    have encStrip := commandAccess_imm16 (i := .encStrip) 0x5 (fun _ => rfl) fits
    simp [assemble, operand_of_lt fits, start, encLed, encStrip]
  · have ofits : o < 2 ^ 16 := Nat.lt_succ_of_le ho
    have vfits : v < 2 ^ 8 := Nat.lt_succ_of_le hv
    simp [assemble, operand_of_lt ofits, operand_of_lt vfits, commandAccess_encCh ofits vfits]
  · have refused : operand 16 n = none := operand_of_le hn
    simp [assemble, refused]
  · obtain h | h := h
    · have refused : operand 16 o = none := operand_of_le h
      simp [assemble, refused]
    · have refused : operand 8 v = none := operand_of_le h
      simp [assemble, refused]
  · have fits : k < 2 ^ 16 := Nat.lt_succ_of_le hk
    have color := assembleSetcolor_of_lt (Nat.lt_succ_of_le hg) (Nat.lt_succ_of_le hr) (Nat.lt_succ_of_le hb)
    have encStrip := commandAccess_imm16 (i := .encStrip) 0x5 (fun _ => rfl) fits
    simp [assemble, operand_of_lt fits, color, encStrip]

end Sys2Proof.Machine

/-! ## The waveform of an intensity (R130, R135) -/

namespace Sys2Proof.Machine

theorem enc_getElem? (p : Params) (b : Byte) {j : Nat} (h : j < 8) :
    (enc p b)[j]? = some (if b.getLsbD (7 - j) then p.high else p.low) := by
  rw [enc, List.getElem?_map, List.getElem?_range h]
  rfl

/-- Settles O13: symbol j is the image of j. -/
theorem waveformIsMsbFirst : Obligations.WaveformIsMsbFirst :=
  fun p b => ⟨enc_length p b, fun _ => enc_getElem? p b⟩

theorem mem_enc {p : Params} {b x : Byte} (h : x ∈ enc p b) : x = p.high ∨ x = p.low := by
  obtain ⟨j, -, rfl⟩ := List.mem_map.1 h
  exact ite_eq_or_eq ..

/-- A symbol is P_HIGH exactly where its bit is 1, since the two patterns differ (R10). -/
theorem enc_getD_eq_high_iff {p : Params} (hp : p.high ≠ p.low) (b : Byte) {j : Nat} (h : j < 8) :
    (enc p b).getD j 0 = p.high ↔ b.getLsbD (7 - j) = true := by
  rw [enc_getD p b h]
  split
  next bit => simp [bit]
  next bit => simp [bit, hp.symm]

/-- The n low bits of x, weighted and added from the most significant one on, are x modulo 2^n. -/
theorem sum_bits_msbFirst (x n : Nat) :
    ((List.range n).map fun j => (x.testBit (n - 1 - j)).toNat * 2 ^ (n - 1 - j)).sum = x % 2 ^ n := by
  induction n with
  | zero => rw [Nat.pow_zero, Nat.mod_one]; rfl
  | succ n ih =>
    rw [List.range_succ_eq_map, List.map_cons, List.sum_cons, List.map_map, Nat.mod_pow_succ, ← Nat.toNat_testBit, ← ih]
    simp only [Function.comp_def, Nat.succ_eq_add_one, Nat.add_sub_cancel, Nat.sub_zero, Nat.sub_sub, Nat.add_comm 1]
    ring

/-- Settles O14: decoding symbol j gives bit 7 - j back, and the weighted bits add up to the intensity. -/
theorem waveformRoundTrips : Obligations.WaveformRoundTrips := by
  intro p b hp
  refine ⟨fun x => mem_enc, ?_⟩
  have decoded : ∀ j ∈ List.range 8, (if (enc p b).getD j 0 = p.high then 1 else 0) * 2 ^ (7 - j) =
      (b.toNat.testBit (7 - j)).toNat * 2 ^ (7 - j) := by
    intro j hj
    simp only [enc_getD_eq_high_iff hp b (List.mem_range.1 hj), BitVec.testBit_toNat, Bool.toNat, cond_eq_ite]
  rw [List.map_congr_left decoded]
  exact (sum_bits_msbFirst b.toNat 8).trans (Nat.mod_eq_of_lt b.isLt)

/-! ## What an encoder command does on each side of its check (R131, R132, R133, R233) -/

section
variable {s : State} {o k : BitVec 16}

theorem exec_encCh (v : Byte) (h : o.toNat + 8 ≤ s.cfg.fbLen) :
    exec (.encCh o v) s = .next (s.hostWriteFb o.toNat (enc s.cfg v)) :=
  congrArg Host.Outcome.next (if_neg (Nat.not_lt.2 h))

theorem exec_encCh_outOfBounds (v : Byte) (h : s.cfg.fbLen < o.toNat + 8) :
    exec (.encCh o v) s = .next (s.raise .bounds 0x3 o) :=
  congrArg Host.Outcome.next (if_pos h)

theorem exec_encLed (h : o.toNat + 24 ≤ s.cfg.fbLen) :
    exec (.encLed o) s = .next (s.encodeLedAt o.toNat) :=
  congrArg Host.Outcome.next (if_neg (Nat.not_lt.2 h))

theorem exec_encLed_outOfBounds (h : s.cfg.fbLen < o.toNat + 24) :
    exec (.encLed o) s = .next (s.raise .bounds 0x4 o) :=
  congrArg Host.Outcome.next (if_pos h)

theorem exec_encStrip (h : k.toNat < s.cfg.nleds) :
    exec (.encStrip k) s = .next (s.encodeLedAt (k.toNat * 24)) :=
  congrArg Host.Outcome.next (if_neg (Nat.not_le.2 h))

theorem exec_encStrip_outOfBounds (h : s.cfg.nleds ≤ k.toNat) :
    exec (.encStrip k) s = .next (s.raise .bounds 0x5 k) :=
  congrArg Host.Outcome.next (if_pos h)

end

/-- Settles O18: past the end of FB, each command only records the error. -/
theorem encoderOutOfBoundsIsRefused : Obligations.EncoderOutOfBoundsIsRefused :=
  fun _ => ⟨fun _ => exec_encCh_outOfBounds, fun _ => exec_encLed_outOfBounds, fun _ => exec_encStrip_outOfBounds⟩

/-! ## The bytes of FB after an encoder command -/

section
variable (s : State) (base : Nat)

theorem State.fbByte_hostWriteFb_within (bytes : List Byte) {j : Nat} (h : j < bytes.length) :
    (s.hostWriteFb base bytes).fbByte (base + j) = bytes.getD j 0 := by
  rw [State.fbByte_hostWriteFb, if_pos (by omega), Nat.add_sub_cancel_left]

theorem State.fbByte_hostWriteFb_outside (bytes : List Byte) {a : Nat} (h : a < base ∨ base + bytes.length ≤ a) :
    (s.hostWriteFb base bytes).fbByte a = s.fbByte a := by
  rw [State.fbByte_hostWriteFb, if_neg (by omega)]

theorem State.fbByte_encodeLedAt_within {j : Nat} (h : j < 24) :
    (s.encodeLedAt base).fbByte (base + j) = (ledSymbols s.cfg s.color).getD j 0 :=
  s.fbByte_hostWriteFb_within base _ (by rwa [ledSymbols_length])

theorem State.fbByte_encodeLedAt_outside {a : Nat} (h : a < base ∨ base + 24 ≤ a) :
    (s.encodeLedAt base).fbByte a = s.fbByte a :=
  s.fbByte_hostWriteFb_outside base _ (by rwa [ledSymbols_length])

theorem State.fbByte_encodeLedAt_slot0 {j : Nat} (h : j < 8) :
    (s.encodeLedAt base).fbByte (base + j) =
      if (s.color.channel s.cfg.order.slot0).getLsbD (7 - j) then s.cfg.high else s.cfg.low := by
  rw [s.fbByte_encodeLedAt_within base (by omega), ledSymbols_slot0 _ _ h]

theorem State.fbByte_encodeLedAt_slot1 {j : Nat} (h : j < 8) :
    (s.encodeLedAt base).fbByte (base + 8 + j) =
      if (s.color.channel s.cfg.order.slot1).getLsbD (7 - j) then s.cfg.high else s.cfg.low := by
  rw [Nat.add_assoc, s.fbByte_encodeLedAt_within base (by omega), ledSymbols_slot1 _ _ h]

theorem State.fbByte_encodeLedAt_slot2 {j : Nat} (h : j < 8) :
    (s.encodeLedAt base).fbByte (base + 16 + j) =
      if (s.color.channel s.cfg.order.slot2).getLsbD (7 - j) then s.cfg.high else s.cfg.low := by
  rw [Nat.add_assoc, s.fbByte_encodeLedAt_within base (by omega), ledSymbols_slot2 _ _ h]

end

/-- Settles O15: ENC_CH is one host write of the waveform. -/
theorem encChWritesTheWaveform : Obligations.EncChWritesTheWaveform := by
  intro s o v h
  refine ⟨_, exec_encCh v h, s.hostWriteFb_frame .., s.hostWriteFb_race_iff .., fun j hj => ?_, fun a ha => ?_⟩
  · rw [s.fbByte_hostWriteFb_within _ _ (by rwa [enc_length]), enc_getD _ _ hj]
  · exact s.fbByte_hostWriteFb_outside _ _ (by rwa [enc_length])

/-- Settles O16: ENC_LED is one host write of the three waveforms, slot by slot. -/
theorem encLedWritesThreeSlots : Obligations.EncLedWritesThreeSlots := by
  intro s o h
  refine ⟨_, exec_encLed h, s.encodeLedAt_frame _, s.encodeLedAt_race_iff _, fun j hj => ?_,
    fun a => s.fbByte_encodeLedAt_outside _⟩
  exact ⟨s.fbByte_encodeLedAt_slot0 _ hj, s.fbByte_encodeLedAt_slot1 _ hj, s.fbByte_encodeLedAt_slot2 _ hj⟩

/-- R133: the place of an LED of a legal build is a 16-bit offset, so the product is exact (R7). -/
theorem ledOffset_toNat {p : Params} (hp : p.legal = true) {k : Nat} (hk : k < p.nleds) :
    (BitVec.ofNat 16 (k * 24)).toNat = k * 24 := by
  obtain ⟨-, hmax, -, -⟩ := Params.legal_bounds hp
  rw [BitVec.toNat_ofNat, Nat.mod_eq_of_lt (by omega)]

/-- Settles O17: both commands write the LED at the same exact place. -/
theorem encStripIsEncLedAtTheLed : Obligations.EncStripIsEncLedAtTheLed := by
  intro s k hlegal hk
  have noWrap := ledOffset_toNat hlegal hk
  have fits : (BitVec.ofNat 16 (k.toNat * 24)).toNat + 24 ≤ s.cfg.fbLen := by
    rw [noWrap, Params.fbLen]
    omega
  have led := exec_encLed fits
  rw [noWrap] at led
  exact ⟨_, exec_encStrip hk, led, noWrap, s.encodeLedAt_frame _, fun j => s.fbByte_encodeLedAt_slot0 _,
    fun a => s.fbByte_encodeLedAt_outside _⟩

/-- Settles O19: a byte of a slot names no channel but the slot's own. -/
theorem channelsAreIndependent : Obligations.ChannelsAreIndependent := by
  intro s c d o h
  refine ⟨_, _, exec_encLed h, exec_encLed h, fun agree j hj => ?_, fun agree j hj => ?_, fun agree j hj => ?_⟩
  · simp only [State.fbByte_encodeLedAt_slot0 _ _ hj, agree]
  · simp only [State.fbByte_encodeLedAt_slot1 _ _ hj, agree]
  · simp only [State.fbByte_encodeLedAt_slot2 _ _ hj, agree]

/-! ## Encoder commands in two engine states (R136) -/

/-- The states agree on what an encoder command may change and the host reads back: FB and ERR. -/
def State.SameFbErr (t v : State) : Prop := v.fb = t.fb ∧ v.err = t.err

section
variable {s u : State} (hfb : u.fb = s.fb) (herr : u.err = s.err)
include hfb herr

theorem State.SameFbErr.hostWriteFb (i : Nat) (bytes : List Byte) :
    (s.hostWriteFb i bytes).SameFbErr (u.hostWriteFb i bytes) :=
  ⟨congrArg (Memory.storeList · i bytes) hfb, herr⟩

theorem State.SameFbErr.raise (c : ErrCode) (op : BitVec 4) (info : BitVec 16) :
    (s.raise c op info).SameFbErr (u.raise c op info) :=
  ⟨hfb, congrArg (Err.record · c op info) herr⟩

theorem State.SameFbErr.encodeLedAt (hcolor : u.color = s.color) (hcfg : u.cfg = s.cfg) (base : Nat) :
    (s.encodeLedAt base).SameFbErr (u.encodeLedAt base) := by
  unfold State.encodeLedAt
  rw [hcolor, hcfg]
  exact .hostWriteFb hfb herr _ _

end

/-- Settles O20: the build decides the check, and on each side of it the command acts on FB and ERR alone. -/
theorem encoderIgnoresTheEngine : Obligations.EncoderIgnoresTheEngine := by
  rintro s u i hi hfb hcolor herr hcfg
  have raises := State.SameFbErr.raise hfb herr
  have writesLed := State.SameFbErr.encodeLedAt hfb herr hcolor hcfg
  obtain ⟨o, v, rfl⟩ | ⟨o, rfl⟩ | ⟨k, rfl⟩ := hi
  · obtain h | h := Nat.lt_or_ge s.cfg.fbLen (o.toNat + 8)
    · exact ⟨_, _, exec_encCh_outOfBounds v h, exec_encCh_outOfBounds v (hcfg ▸ h), raises ..⟩
    · have written := exec_encCh (s := u) v (hcfg ▸ h)
      rw [hcfg] at written
      exact ⟨_, _, exec_encCh v h, written, State.SameFbErr.hostWriteFb hfb herr ..⟩
  · obtain h | h := Nat.lt_or_ge s.cfg.fbLen (o.toNat + 24)
    · exact ⟨_, _, exec_encLed_outOfBounds h, exec_encLed_outOfBounds (hcfg ▸ h), raises ..⟩
    · exact ⟨_, _, exec_encLed h, exec_encLed (hcfg ▸ h), writesLed _⟩
  · obtain h | h := Nat.lt_or_ge k.toNat s.cfg.nleds
    · exact ⟨_, _, exec_encStrip h, exec_encStrip (hcfg ▸ h), writesLed _⟩
    · exact ⟨_, _, exec_encStrip_outOfBounds h, exec_encStrip_outOfBounds (hcfg ▸ h), raises ..⟩

end Sys2Proof.Machine

/-! ## START on each side of its checks, and STOP (R151, R152, R154, R156, R157) -/

namespace Sys2Proof.Machine

section
variable {s : State} {len : BitVec 16}

theorem exec_start_armed (ha : s.armed = true) : exec (.start len) s = .next (s.raise .rearm 0x1 len) :=
  congrArg Host.Outcome.next (if_pos ha)

/-- A disarmed engine makes the check of the length. -/
theorem exec_start_disarmed (ha : s.armed = false) :
    exec (.start len) s =
      .next (if len.toNat = 0 ∨ s.cfg.fbLen < len.toNat then s.raise .cfg 0x1 len else s.arm len) := by
  have zero : len = 0 ↔ len.toNat = 0 := BitVec.toNat_eq
  simp only [← zero]
  exact congrArg Host.Outcome.next (if_neg (ha ▸ Bool.false_ne_true))

theorem exec_start_badLength (ha : s.armed = false) (h : len.toNat = 0 ∨ s.cfg.fbLen < len.toNat) :
    exec (.start len) s = .next (s.raise .cfg 0x1 len) := by
  rw [exec_start_disarmed ha, if_pos h]

theorem exec_start (ha : s.armed = false) (h1 : 1 ≤ len.toNat) (h2 : len.toNat ≤ s.cfg.fbLen) :
    exec (.start len) s = .next (s.arm len) := by
  rw [exec_start_disarmed ha, if_neg (by omega)]

end

theorem exec_stop (s : State) : exec .stop s = .next s.disarm := rfl

/-- R45 (i): in a disarmed state the fields STOP writes hold the values it writes. -/
theorem State.Inv.disarm_eq_self {s : State} (hs : s.Inv) (ha : s.armed = false) : s.disarm = s := by
  have held := hs.disarmed ha
  cases s
  obtain ⟨rfl, rfl, rfl, rfl, rfl⟩ := held
  cases ha
  rfl

section
variable {w : Word}

theorem exec_wrCmd_start (hop : w.extractLsb' 28 4 = 0x1#4) (hrsv : w.extractLsb' 16 12 = 0#12) (s : State) :
    exec (.wrCmd w) s = exec (.start (w.extractLsb' 0 16)) s := by
  rw [exec_wrCmd, decodeCommand_start hop hrsv]

theorem exec_wrCmd_reservedBits (hr : HasReservedBitSet w) {op : BitVec 4} (hop : w.extractLsb' 28 4 = op) (s : State) :
    exec (.wrCmd w) s = .next (s.raise .illegal op (w.extractLsb' 0 16)) := by
  subst hop
  obtain ⟨_, rfl, illegal, -⟩ := illegalWordsRaiseIllegal w s
  exact illegal (.inr hr)

end

/-- Settles O22: on this side of its checks START arms the engine. -/
theorem startArmsTheEngine : Obligations.StartArmsTheEngine := by
  intro s len ha h1 h2
  refine ⟨_, exec_start ha h1 h2, s.arm_frame len, fun i hi => ?_, fun i hi => ?_⟩
  · exact (s.fbByte_arm len i).trans (if_pos hi)
  · exact (s.fbByte_arm len i).trans (if_neg (Nat.not_lt.2 hi))

/-- Settles O23: the decoder makes the first check, START's meaning the other two. -/
theorem startChecksInOrder : Obligations.StartChecksInOrder := by
  intro s w hop
  refine ⟨fun hrsv => ?_, fun hrsv ha => ?_, fun hrsv ha hlen => ?_⟩
  · exact exec_wrCmd_reservedBits (.inl ⟨hop, hrsv⟩) hop s
  · exact (exec_wrCmd_start hop hrsv s).trans (exec_start_armed ha)
  · exact (exec_wrCmd_start hop hrsv s).trans (exec_start_badLength ha hlen)

/-- Settles O24: STOP writes what a disarmed state holds already; a word with another bit set is in the row of R106. -/
theorem stopDisarmsTheEngine : Obligations.StopDisarmsTheEngine := by
  refine ⟨exec_stop, fun s hs ha => ?_, fun s w hop hrsv => ?_⟩
  · rw [exec_stop, hs.disarm_eq_self ha]
  · exact exec_wrCmd_reservedBits (.inr (.inl ⟨hop, hrsv⟩)) hop s

/-- Settles O25: a halted engine is armed, and STOP leaves a disarmed one, which START arms as any other (O22). -/
theorem restartNeedsAStop : Obligations.RestartNeedsAStop := by
  refine ⟨fun s len hs hh => ?_, fun s len h1 h2 => ?_⟩
  · obtain ⟨ha, -, -⟩ := hs.haltedOnly hh
    exact exec_start_armed ha
  · obtain ⟨t, hstart, hframe, hfill, hrest⟩ := startArmsTheEngine s.disarm len s.disarm_armed h1 h2
    exact ⟨_, t, exec_stop s, hstart, hframe, hfill, hrest⟩

end Sys2Proof.Machine

/-! ## A turn of the transfer engine and of the sequencer, where it is enabled (R172 to R179) -/

namespace Sys2Proof.Machine

/-- Settles O39. -/
theorem beatMovesOneByte : Obligations.BeatMovesOneByte := by
  intro s rest hag ha hh hx hlt
  have enabled := (State.beatEnabled_iff { s with agenda := rest }).2 ⟨ha, hh, hx, hlt⟩
  refine ⟨_, (step_beat hag).trans (congrArg _ (State.takeBeat_of_enabled enabled)), ?_, s.desc.pos_succ hlt⟩
  rw [State.sourceByte_eq]
  exact State.moveByte_eq _ _ hx hlt

/-- Settles O40. -/
theorem faultingBeatEmitsADraw : Obligations.FaultingBeatEmitsADraw := by
  intro s rest hag ha hh hx hlt
  have enabled := (State.beatEnabled_iff { s with agenda := rest }).2 ⟨ha, hh, hx, hlt⟩
  rw [step_faultBeat hag, State.takeFaultBeat_of_enabled enabled]
  exact congrArg (fun t : State => Host.Outcome.next { t with faultPend := true, draws := s.draws + 1 })
    (State.moveByte_eq { s with agenda := rest } (Config.wireDraw s.draws) hx hlt)

section
variable {s : State}

theorem step_sequencer_of_some {t : State} {rest : List Event} (hag : s.agenda = .sequencer :: rest)
    (hq : { s with agenda := rest }.sequencer = some t) : step s = .next t := by
  rw [step_sequencer hag, State.takeSequencer, State.orStuck, hq, Option.getD_some]

theorem State.sequencer_of_fault (ha : s.armed = true) (hh : s.halted = false) (hf : s.faultPend = true) :
    s.sequencer = some s.faultStep := by
  simp [State.sequencer, ha, hh, hf]

theorem State.sequencer_of_frame (ha : s.armed = true) (hh : s.halted = false) (hx : s.xcPend = true)
    (hf : s.faultPend = false) (hp : s.phase = .frame) : s.sequencer = some s.frameToGap := by
  simp [State.sequencer, ha, hh, hx, hf, hp]

theorem State.sequencer_of_gap (ha : s.armed = true) (hh : s.halted = false) (hx : s.xcPend = true)
    (hf : s.faultPend = false) (hp : s.phase = .gap) : s.sequencer = some s.gapToFrame := by
  simp [State.sequencer, ha, hh, hx, hf, hp]

end

/-- Settles O42. -/
theorem frameCompletesIntoGap : Obligations.FrameCompletesIntoGap :=
  fun _ _ hag ha hh hx hf hp => step_sequencer_of_some hag (State.sequencer_of_frame ha hh hx hf hp)

/-- Settles O43. -/
theorem gapCompletesIntoFrame : Obligations.GapCompletesIntoFrame :=
  fun _ _ hag ha hh hx hf hp => step_sequencer_of_some hag (State.sequencer_of_gap ha hh hx hf hp)

theorem State.faultStep_of_production {s : State} (h : s.cfg.faultPolicy = .production) :
    s.faultStep = { s with faultCount := s.faultCount + 1, faultPend := false } := by
  rw [State.faultStep, h]

theorem State.faultStep_of_debugHalt {s : State} (h : s.cfg.faultPolicy = .debugHalt) :
    s.faultStep = { s with faultCount := s.faultCount + 1, halted := true } := by
  rw [State.faultStep, h]

/-- Settles O44: the policy decides which of the two bits the fault step writes. -/
theorem faultStepFollowsThePolicy : Obligations.FaultStepFollowsThePolicy := by
  intro s rest hag ha hh hf
  refine ⟨_, step_sequencer_of_some hag (State.sequencer_of_fault ha hh hf), ?_, fun policy => ?_, fun policy => ?_⟩
  · rw [State.faultStep_eq]
    exact BitVec.toNat_add ..
  · rw [State.faultStep_of_production]; exact policy
  · rw [State.faultStep_of_debugHalt]; exact policy

/-! ## Runs of steps -/

theorem run_succ_of_step {s t : State} {n : Nat} (h : step s = .next t) :
    Host.Core.run core (n + 1) s = Host.Core.run core n t := by
  simp only [Host.Core.run]
  rw [show core.step s = .next t from h]

/-- A run goes on from where its first steps led. -/
theorem run_add {M : Host.Core} {m n : Nat} {s t : M.State} (h : M.run m s = .next t) :
    M.run (m + n) s = M.run n t := by
  induction m generalizing s with
  | zero => cases h; rw [Nat.zero_add]
  | succ m ih =>
    rw [Nat.succ_add]
    simp only [Host.Core.run] at h ⊢
    cases hs : M.step s with
    | next u => rw [hs] at h; exact ih h
    | fault r => rw [hs] at h; cases h
    | refused r => rw [hs] at h; cases h

/-- Settles O45: the pending fault has the sequencer's turn, and clears what the faulting beat set. -/
theorem faultsDoNotDisturbThePhases : Obligations.FaultsDoNotDisturbThePhases := by
  intro s rest hag policy ha hh hx hf hlt
  have faulting := faultingBeatEmitsADraw s _ hag ha hh hx hlt
  obtain ⟨u, beat, rfl, -⟩ := beatMovesOneByte { s with agenda := .beat :: rest } rest rfl ha hh hx hlt
  refine ⟨_, _, (run_succ_of_step faulting).trans (run_succ_of_step (n := 0)
    (step_sequencer_of_some rfl (State.sequencer_of_fault ha hh rfl))), beat, ?_⟩
  rw [State.faultStep_of_production, hf]
  exact policy

/-! ## A transfer, from any of its bytes to its last (R173, R186) -/

/-- The byte at index i of the source of the transfer: FB's, or 0x00 of RB. -/
def State.sourceByteAt (s : State) (i : Nat) : Byte :=
  match s.desc.src with
  | .fb => s.fbByte i
  | .rb => 0x00#8

/-- With m + 1 bytes to go, m + 1 beats emit them and complete the transfer. -/
theorem run_beats {m : Nat} {s : State} {rest : List Event} (hag : s.agenda = List.replicate (m + 1) .beat ++ rest)
    (ha : s.armed = true) (hh : s.halted = false) (hx : s.xcPend = false)
    (hm : s.desc.pos.toNat + (m + 1) = s.desc.dlen.toNat) :
    Host.Core.run core (m + 1) s = .next { s with
      agenda := rest
      wire := s.wire ++ (List.range' s.desc.pos.toNat (m + 1)).map s.sourceByteAt
      desc := ⟨s.desc.src, s.desc.dlen, s.desc.dlen⟩
      xcPend := true } := by
  induction m generalizing s with
  | zero =>
    obtain ⟨t, beat, rfl, hpos⟩ := beatMovesOneByte s rest hag ha hh hx (by omega)
    have last : s.desc.pos + 1 = s.desc.dlen := BitVec.eq_of_toNat_eq (hpos.trans hm)
    rw [run_succ_of_step beat, last, decide_eq_true hm]
    rfl
  | succ m ih =>
    obtain ⟨t, beat, ht, hpos⟩ := beatMovesOneByte s _ hag ha hh hx (by omega)
    have more : t.xcPend = false := by rw [ht]; exact decide_eq_false (by omega)
    have dlen : t.desc.dlen = s.desc.dlen := by rw [ht]
    rw [List.range'_succ, List.map_cons, List.append_cons, run_succ_of_step beat,
      ih (by rw [ht]; rfl) (by rw [ht]; exact ha) (by rw [ht]; exact hh) more (by rw [hpos, dlen]; omega), hpos, ht]
    rfl

/-- A whole transfer of n bytes, from its first. -/
theorem run_transfer {s : State} {n : Nat} {src : Source} {len : BitVec 16} {rest : List Event}
    (hag : s.agenda = List.replicate n .beat ++ rest) (ha : s.armed = true) (hh : s.halted = false)
    (hx : s.xcPend = false) (hd : s.desc = ⟨src, len, 0⟩) (hlen : len.toNat = n) (hn : 1 ≤ n) :
    Host.Core.run core n s = .next { s with
      agenda := rest
      wire := s.wire ++ (List.range n).map s.sourceByteAt
      desc := ⟨src, len, len⟩
      xcPend := true } := by
  obtain ⟨m, rfl⟩ := Nat.exists_eq_add_of_le' hn
  have toGo : s.desc.pos.toNat + (m + 1) = s.desc.dlen.toNat := by rw [hd, hlen]; exact Nat.zero_add _
  rw [run_beats hag ha hh hx toGo, hd, List.range_eq_range']
  rfl

/-- Settles O46: a transfer whose source is FB. -/
theorem framePhaseEmitsTheFrame : Obligations.FramePhaseEmitsTheFrame := by
  intro s n rest hag ha hh hx hd hn
  have bytes : s.sourceByteAt = s.fbByte := by funext i; simp [State.sourceByteAt, hd]
  rw [run_transfer hag ha hh hx hd rfl hn, bytes]

/-- The beats of a GAP phase emit 0x00, as many as the descriptor says. -/
theorem run_gap {s : State} {n : Nat} {rest : List Event} (hag : s.agenda = List.replicate n .beat ++ rest)
    (ha : s.armed = true) (hh : s.halted = false) (hx : s.xcPend = false) (hd : s.desc = ⟨.rb, BitVec.ofNat 16 n, 0⟩)
    (hn : 1 ≤ n) (hlt : n < 2 ^ 16) :
    Host.Core.run core n s = .next { s with
      agenda := rest
      wire := s.wire ++ List.replicate n 0x00#8
      desc := ⟨.rb, BitVec.ofNat 16 n, BitVec.ofNat 16 n⟩
      xcPend := true } := by
  have zeros : s.sourceByteAt = fun _ => 0x00#8 := by funext i; simp [State.sourceByteAt, hd]
  have len : (BitVec.ofNat 16 n).toNat = n := (BitVec.toNat_ofNat n 16).trans (Nat.mod_eq_of_lt hlt)
  rw [run_transfer hag ha hh hx hd len hn, zeros, List.map_const', List.length_range]

/-! ## Whole cycles (R187) -/

/-- The engine at the start of a FRAME phase, with nothing pending (R171). -/
structure State.FrameStart (s : State) : Prop where
  armed : s.armed = true
  notHalted : s.halted = false
  noFault : s.faultPend = false
  notComplete : s.xcPend = false
  phase : s.phase = .frame
  desc : s.desc = ⟨.fb, s.lenReg, 0⟩
  lenPos : 1 ≤ s.lenReg.toNat
  resetLenPos : 1 ≤ s.cfg.resetLen
  resetLenLt : s.cfg.resetLen < 2 ^ 16

theorem State.Inv.frameStart {s : State} (hs : s.Inv) (ha : s.armed = true) (hh : s.halted = false)
    (hf : s.faultPend = false) (hp : s.phase = .frame) (hpos : s.desc.pos = 0) : s.FrameStart where
  armed := ha
  notHalted := hh
  noFault := hf
  notComplete := Bool.eq_false_iff.2 fun hx => by
    obtain ⟨-, nonempty, full⟩ := hs.xcPendIff.1 hx
    simp [← full, hpos] at nonempty
  phase := hp
  desc := by
    have src : s.desc.src = .fb := (hs.sourceOfPhase ha).1 hp
    have dlen : s.desc.dlen = s.lenReg := hs.frameLength ha hp
    rw [← src, ← dlen, ← hpos]
  lenPos := (hs.lenRange ha).1
  resetLenPos := by have := Params.legal_bounds hs.buildLegal; omega
  resetLenLt := by have := Params.legal_bounds hs.buildLegal; omega

/-- The turns of one whole cycle: the frame, its completion, the gap, its completion. -/
def State.cycleEvents (s : State) : List Event :=
  List.replicate s.lenReg.toNat .beat ++ [.sequencer] ++ List.replicate s.cfg.resetLen .beat ++ [.sequencer]

/-- The bytes of one whole cycle: the frame, and P_RESET_LEN bytes of 0x00. -/
def State.cycleBytes (s : State) : List Byte :=
  (List.range s.lenReg.toNat).map s.fbByte ++ List.replicate s.cfg.resetLen 0x00#8

/-- What one whole cycle changes. -/
def State.afterCycle (s : State) (rest : List Event) : State :=
  { s with
    agenda := rest
    done := true
    wire := s.wire ++ s.cycleBytes
    phaseTrace := s.phaseTrace ++ [.gap, .frame]
    doneSets := s.doneSets + 1 }

theorem State.cycleBytes_afterCycle (s : State) (rest : List Event) :
    (s.afterCycle rest).cycleBytes = s.cycleBytes := rfl

theorem State.FrameStart.afterCycle {s : State} (hs : s.FrameStart) (rest : List Event) :
    (s.afterCycle rest).FrameStart :=
  { hs with }

/-- One whole cycle leads from the start of a FRAME phase to the start of the next. -/
theorem run_cycle {s : State} {rest : List Event} (hs : s.FrameStart) (hag : s.agenda = s.cycleEvents ++ rest) :
    Host.Core.run core (s.lenReg.toNat + s.cfg.resetLen + 2) s = .next (s.afterCycle rest) := by
  obtain ⟨ha, hh, hf, hx, hp, hd, hlen, hreset, hlt⟩ := hs
  simp only [State.cycleEvents, List.append_assoc, List.singleton_append] at hag
  have frame := framePhaseEmitsTheFrame s s.lenReg _ hag ha hh hx hd hlen
  calc Host.Core.run core (s.lenReg.toNat + (s.cfg.resetLen + 1 + 1)) s
      = Host.Core.run core (s.cfg.resetLen + 1 + 1) _ := run_add frame
    _ = Host.Core.run core (s.cfg.resetLen + 1) _ :=
      run_succ_of_step (frameCompletesIntoGap _ _ rfl ha hh rfl hf hp)
    _ = Host.Core.run core 1 _ := run_add (run_gap rfl ha hh rfl rfl hreset hlt)
    _ = Host.Core.run core 0 _ := run_succ_of_step (gapCompletesIntoFrame _ _ rfl ha hh rfl hf rfl)
    _ = .next (s.afterCycle rest) := by
      simp only [Host.Core.run, State.afterCycle, State.cycleBytes, hd, hx, hp, List.append_assoc, List.singleton_append]

/-- k whole cycles in a row: each starts where the one before it ended. -/
theorem run_cycles (k : Nat) {s : State} {rest : List Event} (hs : s.FrameStart)
    (hag : s.agenda = (List.replicate k s.cycleEvents).flatten ++ rest) :
    Host.Core.run core (k * (s.lenReg.toNat + s.cfg.resetLen + 2)) s = .next { s with
      agenda := rest
      done := s.done || decide (0 < k)
      wire := s.wire ++ (List.replicate k s.cycleBytes).flatten
      phaseTrace := s.phaseTrace ++ (List.replicate k [Phase.gap, Phase.frame]).flatten
      doneSets := s.doneSets + k } := by
  induction k generalizing s with
  | zero =>
    rw [Nat.zero_mul, ← show s.agenda = rest from hag]
    simp [Host.Core.run]
  | succ k ih =>
    simp only [List.replicate_succ, List.flatten_cons, List.append_assoc] at hag
    rw [Nat.succ_mul, Nat.add_comm, run_add (run_cycle hs hag)]
    refine (ih (hs.afterCycle _) rfl).trans ?_
    rw [State.cycleBytes_afterCycle]
    simp [State.afterCycle, List.replicate_succ, Nat.add_assoc, Nat.add_comm 1]

/-- Settles O47: the invariant gives what one cycle after another needs. -/
theorem cyclesPutFramesAndGapsOnTheWire : Obligations.CyclesPutFramesAndGapsOnTheWire := by
  intro s k rest hinv ha hh hf hp hpos
  exact run_cycles k (hinv.frameStart ha hh hf hp hpos)

/-! ## What the engine's steps leave alone, and which steps write WIRE (R47, R175, R182) -/

/-- Settles O54: the engine's updates name none of these fields. -/
theorem engineStepsLeaveTheHostsState : Obligations.EngineStepsLeaveTheHostsState := by
  intro s t h hev
  have kept : (∀ i, s.popEvent.fbByte i = s.fbByte i) ∧ s.popEvent.color = s.color ∧ s.popEvent.err = s.err ∧
      s.popEvent.lenReg = s.lenReg ∧ s.popEvent.race = s.race ∧ s.popEvent.rdata = s.rdata := by
    simp [State.fbByte]
  cases step_cases h with
  | host a t he hx h => simp [he] at hev
  | resets he => simp [he] at hev
  | stuck => exact kept
  | beats he hb => exact kept
  | faults he hb => exact kept
  | sequences t he hq =>
    obtain ⟨-, -, ⟨-, rfl⟩ | ⟨-, -, -, rfl⟩ | ⟨-, -, -, rfl⟩⟩ := State.sequencer_cases hq
    · rw [State.faultStep_eq]; exact kept
    · exact kept
    · exact kept

theorem HostEffect.wire_eq {s t : State} (h : HostEffect s t) : t.wire = s.wire := by
  cases h with
  | refuses a => cases a <;> rfl
  | _ => rfl

/-- Settles O57: of all effects of a step but a reset's only the two beats write WIRE. -/
theorem wireGrowsOnlyByBeats : Obligations.WireGrowsOnlyByBeats := by
  intro s t h hne ht
  have kept : s.popEvent.wire = s.wire := s.popEvent_wire
  have beat (hb : s.popEvent.beatEnabled = true) : s.armed = true ∧ s.halted = false ∧ s.xcPend = false := by
    obtain ⟨ha, hh, hx, -⟩ := s.popEvent.beatEnabled_iff.1 hb
    exact ⟨s.popEvent_armed ▸ ha, s.popEvent_halted ▸ hh, s.popEvent_xcPend ▸ hx⟩
  cases step_cases h with
  | host a t he hx h => exact absurd (h.wire_eq.trans kept) ht
  | stuck => exact absurd kept ht
  | beats he hb => exact ⟨⟨_, congrArg (· ++ [_]) kept⟩, .inl he, beat hb⟩
  | faults he hb => exact ⟨⟨_, congrArg (· ++ [_]) kept⟩, .inr he, beat hb⟩
  | resets he => exact absurd he hne
  | sequences t he hq =>
    obtain ⟨-, -, ⟨-, rfl⟩ | ⟨-, -, -, rfl⟩ | ⟨-, -, -, rfl⟩⟩ := State.sequencer_cases hq
    · rw [State.faultStep_eq] at ht; exact absurd kept ht
    · exact absurd kept ht
    · exact absurd kept ht

/-! ## The line levels of a symbol and of the wire (R15, R175) -/

section
variable (o : WireOrder) (b : Byte)

theorem symbolLevels_length : (symbolLevels o b).length = 8 := by cases o <;> rfl

/-- Bit k goes out at place k or 7 - k, so either order has one high level a 1 bit. -/
theorem symbolLevels_countP : (symbolLevels o b).countP id = popcount b := by
  have mirrored : symbolLevels .msbFirst b = (symbolLevels .lsbFirst b).reverse := rfl
  have lsbFirst : (symbolLevels .lsbFirst b).countP id = popcount b := List.countP_map ..
  cases o with
  | lsbFirst => exact lsbFirst
  | msbFirst => rw [mirrored, List.countP_reverse, lsbFirst]

theorem symbolLevels_getElem? {k : Nat} (h : k < 8) :
    (symbolLevels o b)[k]? = some (b.getLsbD (match o with | .msbFirst => 7 - k | .lsbFirst => k)) := by
  cases o <;> simp [symbolLevels, h]

end

/-- In a concatenation of pieces of n entries each, entry k of piece i stands at n * i + k. -/
theorem getElem?_flatMap_of_length {α β : Type} {f : α → List β} {n : Nat} (hf : ∀ x, (f x).length = n)
    {l : List α} {i : Nat} {x : α} (h : l[i]? = some x) {k : Nat} (hk : k < n) :
    (l.flatMap f)[n * i + k]? = (f x)[k]? := by
  induction l generalizing i with
  | nil => cases h
  | cons y l ih =>
    rw [List.flatMap_cons]
    cases i with
    | zero =>
      cases h
      rw [Nat.mul_zero, Nat.zero_add, List.getElem?_append_left (by rw [hf]; exact hk)]
    | succ i =>
      rw [Nat.mul_succ, Nat.add_right_comm, List.getElem?_append_right (by rw [hf]; omega), hf, Nat.add_sub_cancel]
      exact ih h

/-- Settles O59: symbol by symbol. -/
theorem symbolsGoOutBitByBit : Obligations.SymbolsGoOutBitByBit := by
  intro s
  have hlen := symbolLevels_length s.cfg.wireOrder
  refine ⟨?_, ?_, fun i b hb k hk => ?_⟩
  · simp [State.lineLevels, List.length_flatMap, hlen, Nat.mul_comm]
  · simp [State.lineLevels, List.countP_flatMap, Function.comp_def, symbolLevels_countP]
  · exact (getElem?_flatMap_of_length hlen hb hk).trans (symbolLevels_getElem? _ b hk)

end Sys2Proof.Machine

/-! ## A write of CMD (R202) -/

namespace Sys2Proof.Machine

/-- Settles O26: WR.CMD runs what its word decodes to, and every instruction completes. -/
theorem commandWriteExecutesTheDecodedWord : Obligations.CommandWriteExecutesTheDecodedWord := by
  intro w s
  obtain ⟨t, completes, -⟩ := exec_effect (decodeCommand w) s
  exact ⟨t, (exec_wrCmd w s).trans completes, completes⟩

/-! ## The layouts of the register words (R49 to R55)

The fields come off from the lowest one up, by `rw`: a word's width is written 32, not as the sum of its fields' widths,
and `simp` does not see through that. -/

@[simp] theorem Phase.bit_getElem_zero (p : Phase) : p.bit[0] = decide (p = .gap) := by
  cases p <;> rfl

@[simp] theorem faultPolicyBit_getElem_zero (p : FaultPolicy) :
    (faultPolicyBit p)[0] = decide (p = .debugHalt) := by
  cases p <;> rfl

@[simp] theorem startFillBit_getElem_zero (f : StartFill) : (startFillBit f)[0] = decide (f = .zero) := by
  cases f <;> rfl

@[simp] theorem wireOrderBit_getElem_zero (o : WireOrder) : (wireOrderBit o)[0] = decide (o = .lsbFirst) := by
  cases o <;> rfl

/-- The seven flags of STATUS (R49). -/
theorem State.statusWord_flags (s : State) :
    s.statusWord.getLsbD 0 = s.done ∧ s.statusWord.getLsbD 1 = s.armed ∧
      s.statusWord.getLsbD 2 = decide (s.phase = .gap) ∧ s.statusWord.getLsbD 3 = s.halted ∧
      s.statusWord.getLsbD 4 = s.xcPend ∧ s.statusWord.getLsbD 5 = s.faultPend ∧
      s.statusWord.getLsbD 6 = s.errAny := by
  unfold State.statusWord
  refine ⟨?_, ?_, ?_, ?_, ?_, ?_, ?_⟩
  all_goals
    repeat rw [BitVec.getLsbD_append]
    simp

theorem State.statusWord_reserved (s : State) : s.statusWord.extractLsb' 7 25 = 0#25 := by
  unfold State.statusWord
  repeat rw [BitVec.extractLsb'_append_eq_of_le (by decide)]
  exact BitVec.extractLsb'_eq_self

theorem Err.word_multi (e : Err) : e.word.getLsbD 4 = e.multi := by
  unfold Err.word
  repeat rw [BitVec.getLsbD_append]
  simp

/-- The fields of ERR below INFO, the reserved ones among them (R53). -/
theorem Err.word_fields (e : Err) :
    e.word.extractLsb' 0 4 = e.code.bits ∧ e.word.extractLsb' 5 3 = 0#3 ∧ e.word.extractLsb' 8 4 = e.op ∧
      e.word.extractLsb' 12 4 = 0#4 := by
  unfold Err.word
  refine ⟨?_, ?_, ?_, ?_⟩
  all_goals
    repeat rw [BitVec.extractLsb'_append_eq_of_le (by decide)]
    exact BitVec.extractLsb'_append_eq_right

theorem Err.word_info (e : Err) : e.word.extractLsb' 16 16 = e.info := by
  unfold Err.word
  repeat rw [BitVec.extractLsb'_append_eq_of_le (by decide)]
  exact BitVec.extractLsb'_eq_self

/-- The numbers of CONFIG, as its fields hold them (R54). -/
theorem configWord_numbers (p : Params) :
    (configWord p).extractLsb' 0 16 = BitVec.ofNat 16 p.fbLen ∧
      (configWord p).extractLsb' 16 8 = BitVec.ofNat 8 p.resetLen := by
  unfold configWord
  constructor
  all_goals
    repeat rw [BitVec.extractLsb'_append_eq_of_le (by decide)]
    exact BitVec.extractLsb'_append_eq_right

/-- The choices of CONFIG, a bit each (R54). -/
theorem configWord_choices (p : Params) :
    (configWord p).getLsbD 24 = decide (p.faultPolicy = .debugHalt) ∧
      (configWord p).getLsbD 25 = decide (p.startFill = .zero) ∧
      (configWord p).getLsbD 26 = decide (p.wireOrder = .lsbFirst) := by
  unfold configWord
  refine ⟨?_, ?_, ?_⟩
  all_goals
    repeat rw [BitVec.getLsbD_append]
    simp

theorem configWord_reserved (p : Params) : (configWord p).extractLsb' 27 5 = 0#5 := by
  unfold configWord
  repeat rw [BitVec.extractLsb'_append_eq_of_le (by decide)]
  exact BitVec.extractLsb'_eq_self

/-- The fields of PATTERNS (R55). -/
theorem patternsWord_fields (p : Params) :
    (patternsWord p).extractLsb' 0 8 = p.low ∧ (patternsWord p).extractLsb' 8 8 = p.high ∧
      (patternsWord p).extractLsb' 16 2 = channelBits p.order.slot0 ∧
      (patternsWord p).extractLsb' 18 2 = channelBits p.order.slot1 ∧
      (patternsWord p).extractLsb' 20 2 = channelBits p.order.slot2 := by
  unfold patternsWord
  refine ⟨?_, ?_, ?_, ?_, ?_⟩
  all_goals
    repeat rw [BitVec.extractLsb'_append_eq_of_le (by decide)]
    exact BitVec.extractLsb'_append_eq_right

theorem patternsWord_reserved (p : Params) : (patternsWord p).extractLsb' 22 10 = 0#10 := by
  unfold patternsWord
  repeat rw [BitVec.extractLsb'_append_eq_of_le (by decide)]
  exact BitVec.extractLsb'_eq_self

/-- A word is put together from its four bytes. -/
theorem word_eq_append_bytes (v : Word) :
    v = v.extractLsb' 24 8 ++ v.extractLsb' 16 8 ++ v.extractLsb' 8 8 ++ v.extractLsb' 0 8 := by
  rw [BitVec.extractLsb'_append_extractLsb'_eq_extractLsb' (by decide),
    BitVec.extractLsb'_append_extractLsb'_eq_extractLsb' (by decide),
    BitVec.extractLsb'_append_extractLsb'_eq_extractLsb' (by decide), BitVec.extractLsb'_eq_self]

/-- COLOR reads back the three low bytes of the word written (R50, R205, R206). -/
theorem colorOfWord_word (v : Word) : (colorOfWord v).word = v &&& 0x00FFFFFF#32 := by
  have masked : v &&& (0#8 ++ BitVec.allOnes 8 ++ BitVec.allOnes 8 ++ BitVec.allOnes 8) =
      0#8 ++ v.extractLsb' 16 8 ++ v.extractLsb' 8 8 ++ v.extractLsb' 0 8 := by
    conv_lhs => rw [word_eq_append_bytes v]
    rw [BitVec.and_append, BitVec.and_append, BitVec.and_append]
    simp only [BitVec.and_allOnes, BitVec.and_zero]
  exact masked.symm

/-! ## The register accesses (R203 to R217) -/

/-- Settles O27: the value is the word of STATUS. -/
theorem statusReadReportsTheFlags : Obligations.StatusReadReportsTheFlags := by
  intro s
  obtain ⟨done, armed, gap, halted, xcPend, faultPend, errAny⟩ := s.statusWord_flags
  exact ⟨s.setRdata s.statusWord, rfl, rfl, done, armed, gap, halted, xcPend, faultPend, errAny,
    s.statusWord_reserved⟩

/-- Settles O28: bit 0 of the value either clears DONE or leaves it. -/
theorem statusWriteClearsDone : Obligations.StatusWriteClearsDone := by
  intro s v
  have cleared : (s.done && !v.getLsbD 0) = if v.getLsbD 0 then false else s.done := by
    cases v.getLsbD 0
    · exact Bool.and_true _
    · exact Bool.and_false _
  exact congrArg (fun d => Host.Outcome.next { s with done := d }) cleared

/-- Settles O29: the read after the write gives the word that the three fields make. -/
theorem colorWriteThenRead : Obligations.ColorWriteThenRead := by
  intro s v
  refine ⟨{ s with color := colorOfWord v }, _, rfl, rfl, rfl, ?_⟩
  rw [← colorOfWord_word]
  rfl

/-- Settles O30: each of the four reads returns the word of its register. -/
theorem plainRegisterReads : Obligations.PlainRegisterReads := by
  intro s
  have len : s.lenWord = s.lenReg.setWidth 32 := by
    rw [BitVec.setWidth_eq_append (by decide)]
    rfl
  exact ⟨rfl, rfl, congrArg (fun v => Host.Outcome.next (s.setRdata v)) len, rfl⟩

/-- Settles O31: the value is the word of ERR, whose CODE is the number R231 gives the code. -/
theorem errReadReportsTheError : Obligations.ErrReadReportsTheError := by
  intro s
  obtain ⟨code, low, op, high⟩ := s.err.word_fields
  refine ⟨s.setRdata s.err.word, rfl, rfl, ?_, s.err.word_multi, low, op, high, s.err.word_info⟩
  rw [State.setRdata_rdata, code]
  cases s.err.code <;> rfl

/-- Settles O32: the numbers of a legal build fit their fields of CONFIG (R7, R12). -/
theorem configReadReportsTheBuild : Obligations.ConfigReadReportsTheBuild := by
  intro s hlegal
  obtain ⟨-, nledsMax, -, resetLenMax⟩ := Params.legal_bounds hlegal
  obtain ⟨fbLen, resetLen⟩ := configWord_numbers s.cfg
  obtain ⟨policy, fill, order⟩ := configWord_choices s.cfg
  refine ⟨s.setRdata (configWord s.cfg), rfl, rfl, ?_, ?_, policy, fill, order, configWord_reserved s.cfg⟩
  · rw [State.setRdata_rdata, fbLen]
    exact Nat.mod_eq_of_lt (by rw [Params.fbLen]; omega)
  · rw [State.setRdata_rdata, resetLen]
    exact Nat.mod_eq_of_lt (by omega)

/-- Settles O33: the value is the word of PATTERNS. -/
theorem patternsReadReportsTheSymbols : Obligations.PatternsReadReportsTheSymbols := by
  intro s
  obtain ⟨low, high, slot0, slot1, slot2⟩ := patternsWord_fields s.cfg
  exact ⟨s.setRdata (patternsWord s.cfg), rfl, rfl, low, high, slot0, slot1, slot2, patternsWord_reserved s.cfg⟩

/-- Settles O34: the meanings of the five writes name no field. -/
theorem readOnlyRegisterWritesAreIgnored : Obligations.ReadOnlyRegisterWritesAreIgnored :=
  fun _ _ => ⟨rfl, rfl, rfl, rfl, rfl⟩

/-! ## The frame-buffer window (R218, R219) -/

/-- An accepted write of the FB window is one host write of the value's bytes. -/
theorem exec_wrFb (s : State) {o : Offset} {n : Width} (v : Word) (h : InFbWindow s.cfg.fbLen o n.bytes) :
    exec (.wrFb o n v) s = .next (s.hostWriteFb (fbIndex o) (splitLE v n.bytes)) :=
  congrArg Host.Outcome.next (if_pos ((s.fbAccepts_iff o n).2 h))

/-- FB holds the bytes of the value written, lowest first. -/
theorem State.fbByte_hostWriteFb_splitLE (s : State) (i : Nat) (v : Word) {n k : Nat} (hk : k < n) :
    (s.hostWriteFb i (splitLE v n)).fbByte (i + k) = v.extractLsb' (8 * k) 8 := by
  rw [s.fbByte_hostWriteFb_within _ _ (by rwa [splitLE_length]), splitLE_getD v hk]

/-- Byte k of a little-endian value is the k-th byte loaded. -/
theorem loadLE_extractLsb' (f : Nat → Byte) (i : Nat) {n k : Nat} (hn : n ≤ 4) (hk : k < n) :
    (loadLE f i n).extractLsb' (8 * k) 8 = f (i + k) := by
  refine BitVec.eq_of_getLsbD_eq fun b hb => ?_
  rw [BitVec.getLsbD_extractLsb', decide_eq_true hb, Bool.true_and, loadLE_getLsbD f n i _ hn, if_pos (by omega),
    show (8 * k + b) / 8 = k by omega, show (8 * k + b) % 8 = b by omega]

/-- Loading the n low bytes of v gives v modulo 2^(8n). -/
theorem loadLE_toNat_of_bytes {f : Nat → Byte} {i n : Nat} {v : Word} (hn : n ≤ 4)
    (hf : ∀ k, k < n → f (i + k) = v.extractLsb' (8 * k) 8) : (loadLE f i n).toNat = v.toNat % 2 ^ (8 * n) := by
  refine Nat.eq_of_testBit_eq fun b => ?_
  rw [BitVec.testBit_toNat, loadLE_getLsbD f n i b hn, Nat.testBit_mod_two_pow, BitVec.testBit_toNat]
  by_cases hb : b < 8 * n
  · rw [if_pos hb, hf (b / 8) (by omega), BitVec.getLsbD_extractLsb', Nat.div_add_mod,
      decide_eq_true (Nat.mod_lt b (by decide)), decide_eq_true hb]
  · rw [if_neg hb, decide_eq_false hb, Bool.false_and]

/-- Settles O36: the value is the little-endian load of the bytes of FB. -/
theorem fbReadIsLittleEndian : Obligations.FbReadIsLittleEndian := by
  intro s o n h
  refine ⟨_, exec_rdFb s h, rfl, fun k hk => ?_, fun b hb => ?_⟩
  · exact loadLE_extractLsb' s.fbByte (fbIndex o) (Width.bytes_le n) hk
  · exact (loadLE_getLsbD s.fbByte n.bytes (fbIndex o) b (Width.bytes_le n)).trans (if_neg (Nat.not_lt.2 hb))

/-- Settles O37: the access is one host write of the bytes of the value. -/
theorem fbWriteIsLittleEndian : Obligations.FbWriteIsLittleEndian := by
  intro s o n v h
  refine ⟨_, exec_wrFb s v h, s.hostWriteFb_frame .., s.hostWriteFb_race_iff .., fun k hk => ?_, fun a ha => ?_⟩
  · exact s.fbByte_hostWriteFb_splitLE (fbIndex o) v hk
  · exact s.fbByte_hostWriteFb_outside (fbIndex o) _ (by rwa [splitLE_length])

/-- Settles O38: the write leaves the window as it is, and the bytes loaded are the bytes just stored. -/
theorem fbReadAfterWrite : Obligations.FbReadAfterWrite := by
  intro s o n v h
  have accepted : InFbWindow (s.hostWriteFb (fbIndex o) (splitLE v n.bytes)).cfg.fbLen o n.bytes := h
  refine ⟨_, _, exec_wrFb s v h, exec_rdFb _ accepted, ?_⟩
  exact loadLE_toNat_of_bytes (Width.bytes_le n) fun k hk => s.fbByte_hostWriteFb_splitLE (fbIndex o) v hk

end Sys2Proof.Machine

/-! ## What a step makes of ERR (R44, R235, R236, R242) -/

namespace Sys2Proof.Machine

theorem Err.record_of_none {e : Err} (h : e.code = .none) (c : ErrCode) (op : BitVec 4) (info : BitVec 16) :
    e.record c op info = ⟨c, e.multi, op, info⟩ := if_pos h

/-- Settles O8: the two branches of the recording. -/
theorem firstErrorIsKept : Obligations.FirstErrorIsKept :=
  fun _ c op info => ⟨fun h => Err.record_of_none h c op info, fun h => Err.record_of_error h c op info⟩

/-- Of all that an instruction can do, only the recording of an error touches ERR. It is all the instruction does then,
but for the 0 of a refused read. -/
theorem HostEffect.err_cases {s t : State} (h : HostEffect s t) :
    t.err = s.err ∨ ∃ c op info, t = s.raise c op info ∨ t = (s.raise c op info).setRdata 0 := by
  cases h with
  | raises c op info hc => exact .inr ⟨c, op, info, .inl rfl⟩
  | refuses a =>
    cases a with
    | read o n => exact .inr ⟨.access, 0x0, o, .inr rfl⟩
    | write o n v => exact .inr ⟨.access, 0x0, o, .inl rfl⟩
  | _ => exact .inl rfl

/-- Settles O10: the instruction has recorded an error, and recording writes ERR only. -/
theorem errorsArePrecise : Obligations.ErrorsArePrecise := by
  intro i s t h hne
  rcases (exec_cases h).err_cases with same | ⟨c, op, info, rfl | rfl⟩
  · exact absurd same hne
  · exact ⟨rfl, .inl rfl⟩
  · exact ⟨rfl, .inr rfl⟩

/-- Over an error already kept, an instruction can only set MULTI. -/
theorem HostEffect.err_of_error {s t : State} (h : HostEffect s t) (herr : s.err.code ≠ .none) :
    t.err = s.err ∨ t.err = { s.err with multi := true } := by
  rcases h.err_cases with same | ⟨c, op, info, rfl | rfl⟩
  · exact .inl same
  · exact .inr (Err.record_of_error herr c op info)
  · exact .inr (Err.record_of_error herr c op info)

/-- Settles O11: the host's instructions keep the error, and the engine's steps do not write ERR. -/
theorem errIsSticky : Obligations.ErrIsSticky := by
  intro s t h hne herr
  have kept (hev : s.nextEvent = .beat ∨ s.nextEvent = .faultBeat ∨ s.nextEvent = .sequencer) : t.err = s.err := by
    obtain ⟨-, -, same, -⟩ := engineStepsLeaveTheHostsState s t h hev
    exact same
  cases step_cases h with
  | host a t he hx h =>
    rw [← s.popEvent_err] at herr ⊢
    exact h.err_of_error herr
  | stuck => exact .inl s.popEvent_err
  | beats he hb => exact .inl (kept (.inl he))
  | faults he hb => exact .inl (kept (.inr (.inl he)))
  | sequences t he hq => exact .inl (kept (.inr (.inr he)))
  | resets he => exact absurd he hne

end Sys2Proof.Machine

/-! ## What a reset leaves, and what no step changes: the build and, but for a reset, a RACE that is set (R46, R260) -/

namespace Sys2Proof.Machine

/-- The build is fixed (R215, R217): no instruction writes it. -/
theorem HostEffect.cfg_eq {s t : State} (h : HostEffect s t) : t.cfg = s.cfg := by
  cases h with
  | refuses a => cases a <;> rfl
  | _ => rfl

/-- Of all that an instruction can do, only a write of FB touches RACE, and it can only set it (R213). -/
theorem HostEffect.race_of_race {s t : State} (h : HostEffect s t) (hs : s.race = true) : t.race = true := by
  cases h with
  | writesFb i bytes h => exact (s.hostWriteFb_race_iff i bytes).2 (.inl hs)
  | refuses a => cases a <;> exact hs
  | _ => exact hs

/-- The sequencer's step reads the build (R177) and does not write it. -/
theorem State.sequencer_cfg {s t : State} (h : s.sequencer = some t) : t.cfg = s.cfg := by
  obtain ⟨-, -, ⟨-, rfl⟩ | ⟨-, -, -, rfl⟩ | ⟨-, -, -, rfl⟩⟩ := State.sequencer_cases h
  · rw [State.faultStep_eq]
  · rfl
  · rfl

theorem step_cfg {s t : State} (h : step s = .next t) : t.cfg = s.cfg := by
  have kept : s.popEvent.cfg = s.cfg := s.popEvent_cfg
  cases step_cases h with
  | host a t he hx h => exact h.cfg_eq.trans kept
  | sequences t he hq => exact (State.sequencer_cfg hq).trans kept
  | stuck => exact kept
  | beats he hb => exact kept
  | faults he hb => exact kept
  | resets he => exact kept

theorem step_race_of_race {s t : State} (h : step s = .next t) (hne : s.nextEvent ≠ .reset) (hs : s.race = true) :
    t.race = true := by
  have kept (hev : s.nextEvent = .beat ∨ s.nextEvent = .faultBeat ∨ s.nextEvent = .sequencer) : t.race = true := by
    obtain ⟨-, -, -, -, same, -⟩ := engineStepsLeaveTheHostsState s t h hev
    exact same.trans hs
  have popped : s.popEvent.race = true := s.popEvent_race.trans hs
  cases step_cases h with
  | host a t he hx h => exact h.race_of_race popped
  | stuck => exact popped
  | beats he hb => exact kept (.inl he)
  | faults he hb => exact kept (.inr (.inl he))
  | sequences t he hq => exact kept (.inr (.inr he))
  | resets he => exact absurd he hne

/-- Settles O58. -/
theorem buildIsConstantAndRaceIsSticky : Obligations.BuildIsConstantAndRaceIsSticky :=
  fun _ _ h => ⟨step_cfg h, step_race_of_race h⟩

/-- A step at a reset of the agenda. -/
theorem step_reset {s : State} {rest : List Event} (hag : s.agenda = .reset :: rest) :
    step s = .next { s with agenda := rest }.platformReset := by
  unfold step
  rw [s.nextEvent_cons _ _ hag, s.popEvent_cons _ _ hag]

/-- R33: with no byte written since the reset, FB holds the reset's draws. -/
theorem State.fbByte_of_unwritten {s : State} (h : s.fb = []) (i : Nat) : s.fbByte i = Config.fbDraw s.resets i := by
  unfold State.fbByte
  rw [h]
  rfl

/-- Settles O48: a reset event takes the core's fields from `State.reset`, and both leave FB unwritten. -/
theorem resetLeavesTheResetValues : Obligations.ResetLeavesTheResetValues := by
  intro s rest hag
  refine ⟨_, step_reset hag, State.fbByte_of_unwritten rfl, State.fbByte_of_unwritten rfl, rfl, ?_,
    rfl, rfl, rfl, rfl, rfl⟩
  rintro u (rfl | rfl) <;>
    exact ⟨rfl, rfl, rfl, rfl, rfl, rfl, rfl, rfl, rfl, rfl, rfl, rfl, rfl, rfl, rfl⟩

end Sys2Proof.Machine

/-! ## The choice of the next event, and the turn of an agent with no enabled step (R6, R20, R172, R179) -/

namespace Sys2Proof.Machine

theorem State.nextEvent_nil {s : State} (hag : s.agenda = []) : s.nextEvent = Config.freeEvent s.freeEvents := by
  rw [State.nextEvent, hag]

theorem State.popEvent_nil {s : State} (hag : s.agenda = []) :
    s.popEvent = { s with freeEvents := s.freeEvents + 1 } := by
  rw [State.popEvent, hag]

/-- A step sees of the agenda and of the free events only the event taken up and what taking it up leaves. -/
theorem step_eq_of_event {s t : State} (hnext : s.nextEvent = t.nextEvent) (hpop : s.popEvent = t.popEvent) :
    step s = step t := by
  have hcfg : s.cfg = t.cfg := by rw [← s.popEvent_cfg, hpop, t.popEvent_cfg]
  unfold step State.decodeHost
  rw [hnext, hpop, hcfg]

/-- Settles O7: both states take up the same event, and both leave the agenda empty and that free event used. -/
theorem emptyAgendaTakesAFreeEvent : Obligations.EmptyAgendaTakesAFreeEvent := by
  intro s hag
  have hpop : s.popEvent = { s with agenda := [], freeEvents := s.freeEvents + 1 } := by
    rw [State.popEvent_nil hag, ← hag]
  exact step_eq_of_event (State.nextEvent_nil hag) hpop

section
variable {s : State}

theorem State.takeBeat_of_stuck (h : ¬ s.beatEnabled = true) : s.takeBeat = s := by
  rw [State.takeBeat, State.beat, if_neg h, State.orStuck, Option.getD_none]

theorem State.takeFaultBeat_of_stuck (h : ¬ s.beatEnabled = true) : s.takeFaultBeat = s := by
  rw [State.takeFaultBeat, State.faultBeat, if_neg h, State.orStuck, Option.getD_none]

/-- The sequencer has a step only where a notification is pending of a running engine (R179). -/
theorem State.takeSequencer_of_stuck
    (h : ¬ (s.armed = true ∧ s.halted = false ∧ (s.xcPend = true ∨ s.faultPend = true))) : s.takeSequencer = s := by
  have hnone : s.sequencer = none := by
    refine Option.eq_none_iff_forall_ne_some.2 fun t ht => h ?_
    obtain ⟨ha, hh, ⟨hf, -⟩ | ⟨-, hx, -⟩ | ⟨-, hx, -⟩⟩ := State.sequencer_cases ht
    · exact ⟨ha, hh, .inr hf⟩
    · exact ⟨ha, hh, .inl hx⟩
    · exact ⟨ha, hh, .inl hx⟩
  rw [State.takeSequencer, hnone, State.orStuck, Option.getD_none]

end

/-- Settles O41: the turn is taken off the agenda, and then no step of the agent is enabled. -/
theorem stuckAgentsDoNothing : Obligations.StuckAgentsDoNothing := by
  intro s rest
  refine ⟨fun hag hstuck => ?_, fun hag hstuck => ?_⟩
  · have hdisabled : ¬ { s with agenda := rest }.beatEnabled = true :=
      mt (State.beatEnabled_iff { s with agenda := rest }).1 hstuck
    rcases hag with hag | hag
    · rw [step_beat hag, State.takeBeat_of_stuck hdisabled]
    · rw [step_faultBeat hag, State.takeFaultBeat_of_stuck hdisabled]
  · rw [step_sequencer hag, State.takeSequencer_of_stuck]
    exact hstuck

end Sys2Proof.Machine
